-- ==== Sys2Proof/Word.lean ====
section
/-! DEFINITION. The bit-vector types of the block (rules R6, R7, R60): bus words, bytes, 32-bit status
registers and 64-bit request descriptors. -/

namespace Sys2Proof

/-- A bus word, a command opcode, a chip register address or a payload entry: `u16` (R6 `WORD_BITS`, R60). -/
abbrev Word := BitVec 16

/-- One byte on the serial port (R103). -/
abbrev Byte := BitVec 8

/-- One status register (R24). -/
abbrev Word32 := BitVec 32

/-- A request descriptor (R70). -/
abbrev Desc := BitVec 64

end Sys2Proof
end

