-- ==== Sys2Proof/Syntax.lean ====
section
/-! DEFINITION. The instructions: one constructor per row of spec/opcode_table.json (ten request operations of R72,
three wire preambles of R61, twenty-one wire command opcodes of R63), and the request the HOST issues (R70, R71). -/

namespace Sys2Proof

/-- The closed bit-depth enumeration (R65, R74). -/
inductive Depth where
  | d1 | d2 | d3 | d4 | d8
  deriving DecidableEq, Repr

/-- The END field of a packer request (R70). -/
inductive Endian where
  | little | big
  deriving DecidableEq, Repr

/-- The three transaction types, each named by its preamble (R61). -/
inductive Preamble where
  | cmd | wr | rd
  deriving DecidableEq, Repr

/-- A request: a 64-bit descriptor and a payload of 16-bit entries (R70, R71). -/
structure Request where
  desc    : Desc
  payload : List Word
  deriving DecidableEq, Repr

/-- The opcode table, row by row. -/
inductive Instr where
  /-- SEND_CMD (R104): one command opcode that R63 does not list. -/
  | sendCmd (c : Word)
  /-- WRITE_DATA (R105): the payload words. -/
  | writeData (ws : List Word)
  /-- WRITE_BYTES (R106): the payload bytes. -/
  | writeBytes (bs : List Byte)
  /-- READ_DATA (R107): the read count N. -/
  | readData (n : Nat)
  /-- WRITE_REG (R150): address and value. -/
  | writeReg (a v : Word)
  /-- READ_REG (R152): address. -/
  | readReg (a : Word)
  /-- WAIT_DPY_READY (R156): status-register address. -/
  | waitDpyReady (a : Word)
  /-- PACK_PIXELS (R170): depth, endianness and the whole payload `[x, y, w, h, pixels…]`, of any length. -/
  | packPixels (d : Depth) (e : Endian) (payload : List Word)
  /-- DECODE_DEVINFO (R190): the words to decode, of any number. -/
  | decodeDevinfo (ws : List Word)
  /-- QUERY_DEVINFO (R194). -/
  | queryDevinfo
  /-- PREAMBLE_CMD = 0x6000 (R61). -/
  | preambleCmd
  /-- PREAMBLE_WR = 0x0000 (R61). -/
  | preambleWr
  /-- PREAMBLE_RD = 0x1000 (R61). -/
  | preambleRd
  /-- SYS_RUN = 0x0001 (R120). -/
  | sysRun
  /-- STANDBY = 0x0002 (R121). -/
  | standby
  /-- SLEEP = 0x0003 (R122). -/
  | sleep
  /-- REG_RD = 0x0010 (R123). -/
  | regRd
  /-- REG_WR = 0x0011 (R124). -/
  | regWr
  /-- BURST_12 = 0x0012 (R125). -/
  | burst12
  /-- BURST_13 = 0x0013 (R126). -/
  | burst13
  /-- BURST_14 = 0x0014 (R127). -/
  | burst14
  /-- BURST_15 = 0x0015 (R128). -/
  | burst15
  /-- LD_IMG_20 = 0x0020 (R129). -/
  | ldImg20
  /-- LD_IMG_21 = 0x0021 (R130). -/
  | ldImg21
  /-- LD_IMG_22 = 0x0022 (R131). -/
  | ldImg22
  /-- LD_IMG_95 = 0x0095 (R132). -/
  | ldImg95
  /-- DPY_AREA = 0x0034 (R133). -/
  | dpyArea
  /-- DPY_BUF_AREA = 0x0037 (R134). -/
  | dpyBufArea
  /-- POWER_SEQUENCE = 0x0038 (R135). -/
  | powerSequence
  /-- CMD_VCOM = 0x0039 (R136). -/
  | cmdVcom
  /-- FILL_RECT = 0x003A (R137). -/
  | fillRect
  /-- CMD_TEMPERATURE = 0x0040 (R138). -/
  | cmdTemperature
  /-- BPP_SETTINGS = 0x0080 (R139). -/
  | bppSettings
  /-- GET_DEV_INFO = 0x0302 (R140). -/
  | getDevInfo
  deriving DecidableEq, Repr

end Sys2Proof
end

