-- ==== Sys2Proof/WellFormed.lean ====
section
/-! DEFINITION. Which instructions are the reading of some request or wire word: the bounds the descriptor's fields
put on the operands (R70, R71, R75, R77). -/

namespace Sys2Proof

/-- The twenty-one opcodes of the table of R63 (the count is C7's). -/
def listedOpcodes : List Word :=
  [0x0001, 0x0002, 0x0003, 0x0010, 0x0011, 0x0012, 0x0013, 0x0014, 0x0015, 0x0020, 0x0021, 0x0022, 0x0095,
   0x0034, 0x0037, 0x0038, 0x0039, 0x003A, 0x0040, 0x0080, 0x0302]

/-- `n` fits the LEN32 field (R70). -/
def fitsLen32 (n : Nat) : Bool := decide (n < 4294967296)

/-- Bits `[15:8]` of a byte or pixel entry are zero (R71, R75). -/
def fitsByte (w : Word) : Bool := decide (w.toNat < 256)

/-- An instruction as the port can carry it. A SEND_CMD of a listed opcode is that opcode's own row (log entry 7). -/
def Instr.wellFormed : Instr → Bool
  | .sendCmd c => !listedOpcodes.contains c
  | .writeData ws => fitsLen32 ws.length
  | .writeBytes bs => fitsLen32 bs.length
  | .readData n => fitsLen32 n
  | .packPixels _ _ p => fitsLen32 p.length && (p.drop 4).all fitsByte
  | .decodeDevinfo ws => fitsLen32 ws.length
  | .writeReg _ _ => true
  | .readReg _ => true
  | .waitDpyReady _ => true
  | .queryDevinfo => true
  | .preambleCmd => true
  | .preambleWr => true
  | .preambleRd => true
  | .sysRun => true
  | .standby => true
  | .sleep => true
  | .regRd => true
  | .regWr => true
  | .burst12 => true
  | .burst13 => true
  | .burst14 => true
  | .burst15 => true
  | .ldImg20 => true
  | .ldImg21 => true
  | .ldImg22 => true
  | .ldImg95 => true
  | .dpyArea => true
  | .dpyBufArea => true
  | .powerSequence => true
  | .cmdVcom => true
  | .fillRect => true
  | .cmdTemperature => true
  | .bppSettings => true
  | .getDevInfo => true

end Sys2Proof
end

