-- ==== Sys2Proof/Decode.lean ====
section
/-! DEFINITION. The two encodings of 30_encoding.md: the request descriptor (R70 to R77) and the 16-bit wire words
(R61, R63). The decoder is total and rejects by name; the encoder after it is written from the same tables. Byte-order
helpers (R7, R45) stand here too. -/

namespace Sys2Proof

/-! ### Byte order (R7, R45, R102) -/

/-- `hi(w) = w[15:8]` (R7). -/
def hi (w : Word) : Byte := w.extractLsb' 8 8

/-- `lo(w) = w[7:0]` (R7). -/
def lo (w : Word) : Byte := w.extractLsb' 0 8

/-- `(b0 << 8) | b1`, the word received as b0 then b1 (R45, R102). -/
def joinBytes (b0 b1 : Byte) : Word := b0 ++ b1

/-- The bits of a byte in the order they go on the wire, most significant first (R45, R103, D8). -/
def byteBits (b : Byte) : List Bool :=
  [b.getLsbD 7, b.getLsbD 6, b.getLsbD 5, b.getLsbD 4, b.getLsbD 3, b.getLsbD 2, b.getLsbD 1, b.getLsbD 0]

/-! ### Descriptor fields (R70) -/

/-- OP, bits `[3:0]`. -/
def Desc.op (d : Desc) : BitVec 4 := d.extractLsb' 0 4

/-- BPP, bits `[6:4]`. -/
def Desc.bpp (d : Desc) : BitVec 3 := d.extractLsb' 4 3

/-- END, bit `[7]`. -/
def Desc.endian (d : Desc) : BitVec 1 := d.extractLsb' 7 1

/-- RSVD, bits `[15:8]`. -/
def Desc.rsvd (d : Desc) : BitVec 8 := d.extractLsb' 8 8

/-- ARG16, bits `[31:16]`. -/
def Desc.arg16 (d : Desc) : Word := d.extractLsb' 16 16

/-- LEN32, bits `[63:32]`. -/
def Desc.len32 (d : Desc) : Word32 := d.extractLsb' 32 32

/-- `plen(desc)` (R71): the payload length the descriptor requires. -/
def plen (d : Desc) : Nat :=
  match (Desc.op d).toNat with
  | 2 | 3 | 5 | 8 | 9 => (Desc.len32 d).toNat
  | _ => 0

/-- A request is well-formed iff `len(payload) = plen(desc)` (R71). -/
def Request.wellFormed (r : Request) : Bool := r.payload.length == plen r.desc

/-! ### Field codes -/

/-- The BPP field's depth (R74); 5, 6 and 7 are reserved. -/
def depthOfCode (c : BitVec 3) : Option Depth :=
  match c.toNat with
  | 0 => some .d1
  | 1 => some .d2
  | 2 => some .d3
  | 3 => some .d4
  | 4 => some .d8
  | _ => none

/-- The BPP code of a depth (R74). -/
def depthCode : Depth → BitVec 3
  | .d1 => 0
  | .d2 => 1
  | .d3 => 2
  | .d4 => 3
  | .d8 => 4

/-- END: 0 = little, 1 = big (R70). -/
def endianOfBit (b : BitVec 1) : Endian := if b = 0 then .little else .big

/-- The END bit of an endianness (R70). -/
def endianBit : Endian → BitVec 1
  | .little => 0
  | .big => 1

/-- The preamble words (R61). -/
def preambleWord : Preamble → Word
  | .cmd => 0x6000
  | .wr => 0x0000
  | .rd => 0x1000

/-- The instruction a preamble stands for. -/
def preambleInstr : Preamble → Instr
  | .cmd => .preambleCmd
  | .wr => .preambleWr
  | .rd => .preambleRd

/-! ### Wire words (R61, R63) -/

/-- The row of a command opcode (R63); an unlisted value is a SEND_CMD of that value (R64, R142). -/
def commandInstr (c : Word) : Instr :=
  match c.toNat with
  | 0x0001 => .sysRun
  | 0x0002 => .standby
  | 0x0003 => .sleep
  | 0x0010 => .regRd
  | 0x0011 => .regWr
  | 0x0012 => .burst12
  | 0x0013 => .burst13
  | 0x0014 => .burst14
  | 0x0015 => .burst15
  | 0x0020 => .ldImg20
  | 0x0021 => .ldImg21
  | 0x0022 => .ldImg22
  | 0x0095 => .ldImg95
  | 0x0034 => .dpyArea
  | 0x0037 => .dpyBufArea
  | 0x0038 => .powerSequence
  | 0x0039 => .cmdVcom
  | 0x003A => .fillRect
  | 0x0040 => .cmdTemperature
  | 0x0080 => .bppSettings
  | 0x0302 => .getDevInfo
  | _ => .sendCmd c

/-- The wire words that the opcode table lists: a preamble or a listed opcode, and nothing else. -/
def decodeWire (w : Word) : Option Instr :=
  match w.toNat with
  | 0x6000 => some .preambleCmd
  | 0x0000 => some .preambleWr
  | 0x1000 => some .preambleRd
  | _ => if listedOpcodes.contains w then some (commandInstr w) else none

/-- The wire word of a row of the two wire tables; none for the ten request operations. -/
def wireWord : Instr → Option Word
  | .preambleCmd => some 0x6000
  | .preambleWr => some 0x0000
  | .preambleRd => some 0x1000
  | .sysRun => some 0x0001
  | .standby => some 0x0002
  | .sleep => some 0x0003
  | .regRd => some 0x0010
  | .regWr => some 0x0011
  | .burst12 => some 0x0012
  | .burst13 => some 0x0013
  | .burst14 => some 0x0014
  | .burst15 => some 0x0015
  | .ldImg20 => some 0x0020
  | .ldImg21 => some 0x0021
  | .ldImg22 => some 0x0022
  | .ldImg95 => some 0x0095
  | .dpyArea => some 0x0034
  | .dpyBufArea => some 0x0037
  | .powerSequence => some 0x0038
  | .cmdVcom => some 0x0039
  | .fillRect => some 0x003A
  | .cmdTemperature => some 0x0040
  | .bppSettings => some 0x0080
  | .getDevInfo => some 0x0302
  | .sendCmd _ => none
  | .writeData _ => none
  | .writeBytes _ => none
  | .readData _ => none
  | .writeReg _ _ => none
  | .readReg _ => none
  | .waitDpyReady _ => none
  | .packPixels _ _ _ => none
  | .decodeDevinfo _ => none
  | .queryDevinfo => none

/-! ### The decoder -/

/-- The encoding violations of R75, by the field that breaks its constraint (R73). -/
inductive Violation where
  | reservedOp
  | rsvdNonzero
  | bppNonzero
  | endNonzero
  | arg16Nonzero
  | badLen32
  | bppReserved
  | payloadHighByte
  deriving DecidableEq, Repr

/-- What the decoder answers: an instruction; an encoding violation, which the block answers with E_ILLEGAL (R75);
or a payload of the wrong length, which the port refuses (R71); or, in the preambles' place on the wire, a word that
is no row. -/
inductive Decoded where
  | instr (i : Instr)
  | violation (v : Violation)
  | badLength
  | noRow
  deriving DecidableEq, Repr

/-- What the ENGINE takes up next: a request at the port, or the wire word its own program is about to put on the
bus as a transaction's first word. -/
inductive Fetched where
  | request (r : Request)
  | wire (w : Word)
  deriving DecidableEq, Repr

/-- Answer violation `v` if `bad` holds, else go on with `k`. -/
def checkField (bad : Bool) (v : Violation) (k : Decoded) : Decoded :=
  if bad then .violation v else k

/-- `BPP = 0` and `END = 0`, required of every OP other than PACK_PIXELS (R73). -/
def checkPlain (d : Desc) (k : Decoded) : Decoded :=
  checkField (Desc.bpp d != 0) .bppNonzero (checkField (Desc.endian d != 0) .endNonzero k)

/-- The request decoder, R72's table with R73's constraints, for a payload of the length R71 requires. -/
def decodeBody (d : Desc) (payload : List Word) : Decoded :=
  match (Desc.op d).toNat with
  | 1 => checkPlain d (checkField (Desc.len32 d != 0) .badLen32 (.instr (commandInstr (Desc.arg16 d))))
  | 2 => checkPlain d (checkField (Desc.arg16 d != 0) .arg16Nonzero (.instr (.writeData payload)))
  | 3 => checkPlain d (checkField (Desc.arg16 d != 0) .arg16Nonzero
      (checkField (!payload.all fitsByte) .payloadHighByte (.instr (.writeBytes (payload.map lo)))))
  | 4 => checkPlain d (checkField (Desc.arg16 d != 0) .arg16Nonzero (.instr (.readData (Desc.len32 d).toNat)))
  | 5 => checkPlain d (checkField (Desc.len32 d != 1) .badLen32
      (.instr (.writeReg (Desc.arg16 d) (payload.headD 0))))
  | 6 => checkPlain d (checkField (Desc.len32 d != 0) .badLen32 (.instr (.readReg (Desc.arg16 d))))
  | 7 => checkPlain d (checkField (Desc.len32 d != 0) .badLen32 (.instr (.waitDpyReady (Desc.arg16 d))))
  | 8 => match depthOfCode (Desc.bpp d) with
    | none => .violation .bppReserved
    | some depth => checkField (Desc.arg16 d != 0) .arg16Nonzero
        (checkField (!(payload.drop 4).all fitsByte) .payloadHighByte
          (.instr (.packPixels depth (endianOfBit (Desc.endian d)) payload)))
  | 9 => checkPlain d (checkField (Desc.arg16 d != 0) .arg16Nonzero (.instr (.decodeDevinfo payload)))
  | 10 => checkPlain d (checkField (Desc.arg16 d != 0) .arg16Nonzero
      (checkField (Desc.len32 d != 0) .badLen32 (.instr .queryDevinfo)))
  | _ => .violation .reservedOp

/-- Decode a request: R71's length first, then RSVD (R73), then the OP's own constraints. -/
def decodeRequest (r : Request) : Decoded :=
  if r.wellFormed then
    checkField (Desc.rsvd r.desc != 0) .rsvdNonzero (decodeBody r.desc r.payload)
  else .badLength

/-- The decoder. -/
def decode : Fetched → Decoded
  | .request r => decodeRequest r
  | .wire w => match decodeWire w with
    | some i => .instr i
    | none => .noRow

/-! ### The encoder (R70, R72, R74, R77, R80) -/

/-- `zext_64(LEN32) << 32 | ARG16 << 16 | END << 7 | BPP << 4 | OP` (R80), with RSVD = 0. -/
def mkDesc (op : BitVec 4) (bpp : BitVec 3) (e : BitVec 1) (arg : Word) (len : Word32) : Desc :=
  len ++ arg ++ (0#8) ++ e ++ bpp ++ op

/-- A request of an OP with no BPP and END fields. -/
def plainRequest (op : BitVec 4) (arg : Word) (len : Nat) (payload : List Word) : Request :=
  ⟨mkDesc op 0 0 arg (BitVec.ofNat 32 len), payload⟩

/-- The SEND_CMD request of an opcode (R104). -/
def cmdRequest (c : Word) : Request := plainRequest 0x1 c 0 []

/-- The encoding of every row: a request, or, for the preambles, a wire word. A listed opcode's encoding is
"SEND_CMD with ARG16 = opcode" (41_commands.md). -/
def encode : Instr → Fetched
  | .sendCmd c => .request (cmdRequest c)
  | .writeData ws => .request (plainRequest 0x2 0 ws.length ws)
  | .writeBytes bs => .request (plainRequest 0x3 0 bs.length (bs.map (BitVec.setWidth 16)))
  | .readData n => .request (plainRequest 0x4 0 n [])
  | .writeReg a v => .request (plainRequest 0x5 a 1 [v])
  | .readReg a => .request (plainRequest 0x6 a 0 [])
  | .waitDpyReady a => .request (plainRequest 0x7 a 0 [])
  | .packPixels d e p =>
    .request ⟨mkDesc 0x8 (depthCode d) (endianBit e) 0 (BitVec.ofNat 32 p.length), p⟩
  | .decodeDevinfo ws => .request (plainRequest 0x9 0 ws.length ws)
  | .queryDevinfo => .request (plainRequest 0xA 0 0 [])
  | .preambleCmd => .wire 0x6000
  | .preambleWr => .wire 0x0000
  | .preambleRd => .wire 0x1000
  | .sysRun => .request (cmdRequest 0x0001)
  | .standby => .request (cmdRequest 0x0002)
  | .sleep => .request (cmdRequest 0x0003)
  | .regRd => .request (cmdRequest 0x0010)
  | .regWr => .request (cmdRequest 0x0011)
  | .burst12 => .request (cmdRequest 0x0012)
  | .burst13 => .request (cmdRequest 0x0013)
  | .burst14 => .request (cmdRequest 0x0014)
  | .burst15 => .request (cmdRequest 0x0015)
  | .ldImg20 => .request (cmdRequest 0x0020)
  | .ldImg21 => .request (cmdRequest 0x0021)
  | .ldImg22 => .request (cmdRequest 0x0022)
  | .ldImg95 => .request (cmdRequest 0x0095)
  | .dpyArea => .request (cmdRequest 0x0034)
  | .dpyBufArea => .request (cmdRequest 0x0037)
  | .powerSequence => .request (cmdRequest 0x0038)
  | .cmdVcom => .request (cmdRequest 0x0039)
  | .fillRect => .request (cmdRequest 0x003A)
  | .cmdTemperature => .request (cmdRequest 0x0040)
  | .bppSettings => .request (cmdRequest 0x0080)
  | .getDevInfo => .request (cmdRequest 0x0302)

/-! ### Requests as numbers -/

/-- The request whose descriptor is bits `[63:0]` of `w` and whose payload entries are the 16-bit words above it,
as many as the descriptor requires (R71); bits that `w` does not have are 0. -/
def requestOfNat (w : Nat) : Request :=
  let d : Desc := BitVec.ofNat 64 w
  ⟨d, (List.range (plen d)).map fun k => BitVec.ofNat 16 (w >>> (64 + 16 * k))⟩

/-- What an opcode-table word of `nbits` bits is: up to 16 bits a wire word (R61, R63), above a request (R70). -/
def decodeTableWord (nbits w : Nat) : Option Instr :=
  if nbits ≤ 16 then decodeWire (BitVec.ofNat 16 w)
  else match decodeRequest (requestOfNat w) with
    | .instr i => some i
    | .violation _ => none
    | .badLength => none
    | .noRow => none

end Sys2Proof
end

