-- ==== Sys2Proof/Config.lean ====
section
/-! DEFINITION. The block's parameters (rule R6): the OPEN ones as constants without a body, so that nothing can
evaluate them, and the free values the CHIP supplies (R5, U1, U4). The parameters that R6 gives a value stand in
the file that uses them. Log entries 2 and 14. -/

namespace Sys2Proof

/-- The order of the two temperature words (R199, OPEN). -/
inductive TempOrder where
  | measuredFirst
  | forcedFirst
  deriving DecidableEq, Repr, Inhabited

/-! ### The CHIP's draws, under no law (R5, R101, R103; 93 U1, U4, U5) -/

/-- FREE VALUE. The n-th HRDY sample the CHIP answers once the samples queued in the state are used up. -/
opaque Config.hrdyDraw : Nat → Bool

/-- FREE VALUE. The n-th MISO byte the CHIP answers once the bytes queued in the state are used up. -/
opaque Config.misoDraw : Nat → Byte

/-! ### OPEN parameters that some rule reads -/

/-- `LUT_STATUS_ADDR` (R6, D18), read by the `WAITLUT` pseudo-instruction. -/
opaque Config.lutStatusAddr : Word

/-- `FB_BASE_LO_ADDR` (R6, D19), read by `SETFB`. -/
opaque Config.fbBaseLoAddr : Word

/-- `FB_BASE_HI_ADDR` (R6, D19), read by `SETFB`. -/
opaque Config.fbBaseHiAddr : Word

/-- `PACKED_MODE_ADDR` (R6, D20), read by `PACKED_ON`. -/
opaque Config.packedModeAddr : Word

/-- `PACKED_MODE_VALUE` (R6, D20), read by `PACKED_ON`. -/
opaque Config.packedModeValue : Word

/-- `IMAGEINFO_LAYOUT` (R176, D34): the argument word from the three wire codes. -/
opaque Config.imageInfoLayout : Word → Word → Word → Word

/-- `BPP_WIRE_CODE` (R65, D35). -/
opaque Config.bppWireCode : Depth → Word

/-- `ENDIAN_WIRE_CODE` (R65, D35). -/
opaque Config.endianWireCode : Endian → Word

/-- `ROTATION_WIRE_CODE` (R65, D35); the members are not in the source, so a member is named by an index. -/
opaque Config.rotationWireCode : Nat → Word

/-- `WAVEFORM_MODE_CODE` (R65, D35); the members are not in the source, so a member is named by an index. -/
opaque Config.waveformModeCode : Nat → Word

/-- `TEMP_ORDER` (R199, D33). -/
opaque Config.tempOrder : TempOrder

/-- `VCOM_PERSIST_ENCODING` (R198, D32): places the persist flag and frames CMD_VCOM, from the magnitude word and
the flag. -/
opaque Config.vcomPersistEncoding : Word → Bool → List Request

/-- `CS_ACTIVE_LEVEL` (R27, D10): the electrical level of an asserted chip-select. -/
opaque Config.csActiveLevel : Bool

/-- `HRDY_ACTIVE_LEVEL` (R27, D10): the electrical level of an asserted HRDY. -/
opaque Config.hrdyActiveLevel : Bool

/-! ### OPEN parameters that no rule reads (R6, D9) -/

/-- `BUS_MODE`: clock polarity and phase. -/
opaque Config.busMode : Nat

/-- `SCLK_HZ`: the serial clock rate. -/
opaque Config.sclkHz : Nat

end Sys2Proof
end

