-- ==== Sys2Proof/Machine/State.lean ====
section
/-! DEFINITION. The state of the block as plain data (10_state.md), with the CHIP's and the HOST's inputs as the queues
the step reads (R5, R36; log entries 1 to 6), and the state after reset (R32). -/

namespace Sys2Proof.Machine

/-- R22. `STATUS.BUSY` is 1 iff the phase is BUSY (log entry 11). -/
inductive Phase where
  | idle
  | busy
  deriving DecidableEq, Repr

/-- The status codes of R213; code 7 is reserved and never produced. -/
inductive Status where
  | ok
  | size
  | precond
  | unimpl
  | comm
  | illegal
  | timeout
  deriving DecidableEq, Repr

/-- The trace events of R29. -/
inductive Event where
  | cs1
  | cs0
  | rdy
  | x16 (o i : Word)
  | x8 (o i : Byte)
  deriving DecidableEq, Repr

/-- A response (R211). -/
structure Response where
  status : Status
  data   : List Word
  deriving DecidableEq, Repr

/-- How a request's pseudocode ends. -/
inductive Finish where
  /-- `Respond(OK, data)`. -/
  | ok (data : List Word)
  /-- `raise E` (R212). -/
  | fail (e : Status)
  /-- PACK_PIXELS' success (R170): write PACK_GEOM and respond with the packed words. -/
  | pack (geom : Word32) (out : List Word)
  /-- `Respond(OK, drop(2, rx))` (R107, R152). -/
  | readWords
  /-- WAIT_DPY_READY's test of the word just read from register `a` (R156). -/
  | poll (a : Word)
  /-- QUERY_DEVINFO's decoding of the words just read (R194). -/
  | devInfo
  deriving DecidableEq, Repr

/-- One point of a request's pseudocode (R22's micro-state is a list of these; log entry 10). -/
inductive Act where
  /-- `CsAssert()` (R9). -/
  | csOn
  /-- `CsAssert(); rx <- []`, how a read transaction starts (R107). -/
  | rdOn
  /-- `CsDeassert()` (R9). -/
  | csOff
  /-- `WaitReady()` from its start (R101). -/
  | ready
  /-- `WaitReady()` inside its hold. -/
  | wait
  /-- The exchange of a transaction's preamble (R61). -/
  | pre (p : Preamble)
  /-- `Xfer16(o)`, received word discarded (R109). -/
  | x16 (o : Word)
  /-- `rx <- rx ++ [Xfer16(0x0000)]` (R107). -/
  | fill
  /-- `Xfer8(o)`, received byte discarded (R106, R109). -/
  | x8 (o : Byte)
  /-- The end of the request. -/
  | done (f : Finish)
  deriving DecidableEq, Repr

/-- The DeviceInfo cache, CSR 1 to 10 (R24, R26). -/
structure DiCache where
  dims   : Word32
  fbAddr : Word32
  fw0    : Word32
  fw1    : Word32
  fw2    : Word32
  fw3    : Word32
  lut0   : Word32
  lut1   : Word32
  lut2   : Word32
  lut3   : Word32
  deriving DecidableEq, Repr

/-- No fault is the block's own: its errors are statuses of a response (R213, R220). -/
inductive Fault where
  /-- Raised by `step` in the BUSY phase at no point of any request's pseudocode. No rule leads there from reset, and an
  invariant excludes it; it arises only where a state is written by hand. Safe: the model stops. -/
  | busyWithoutProgram
  deriving DecidableEq, Repr

/-- Why the model gives a step no meaning. -/
inductive Refusal where
  /-- Raised by `exec` for an instruction that has no meaning yet. Safe: the model stops. -/
  | notModelled (mnemonic : String)
  /-- Raised by `step` for a request whose payload length is not the one its descriptor requires: "A model refuses an
  ill-formed request at the port, so it never enters the ENGINE" (R71; 93 U16). Safe: the model stops. -/
  | illFormedRequest
  /-- Raised by `step` if the wire word it takes up is no row; the ENGINE only ever puts a preamble first (R64), so no
  state raises it. Safe: the model stops. -/
  | noSuchWireWord
  deriving DecidableEq, Repr

structure State where
  /-- R22 -/
  phase : Phase
  /-- R23, the request latch; it holds nothing outside a request (R34). -/
  req : Option Request
  /-- R22, the point of the request's pseudocode the ENGINE is at: what remains of it. -/
  todo : List Act
  /-- R27, the chip-select output; `STATUS.CS` mirrors it. -/
  cs : Bool
  /-- R25, `STATUS.DI_VALID`. -/
  diValid : Bool
  /-- R25, `STATUS.LAST_ERR`. -/
  lastErr : Status
  /-- R26, CSR 1 to 10. -/
  di : DiCache
  /-- R28, CSR 11. -/
  packGeom : Word32
  /-- R31, the raw received words of the current read transaction. -/
  rx : List Word
  /-- R31, the failed HRDY samples of the current ready-wait. -/
  wcount : Nat
  /-- R6 `READY_TIMEOUT`, fixed for the machine: nothing writes it; CSR 12 shows whether it is set. -/
  readyTimeout : Option Nat
  /-- R29, the model's record of the wire. -/
  trace : List Event
  /-- R27, R211, the model's record of the response port, oldest first. -/
  responses : List Response
  /-- R27, R210, the requests the HOST has waiting at the request port, next one first. -/
  port : List Request
  /-- R27, the samples of `rst` at the coming program points; none left reads as released. -/
  rstIn : List Bool
  /-- R5, the HRDY samples the CHIP has queued. -/
  hrdyIn : List Bool
  /-- R5, the MISO bytes the CHIP has queued. -/
  misoIn : List Byte
  /-- The model's own: how many values of `Config.hrdyDraw` have been taken. -/
  hrdyDrawn : Nat
  /-- The model's own: how many values of `Config.misoDraw` have been taken. -/
  misoDrawn : Nat
  deriving DecidableEq, Repr

/-- R32: the cache registers are 0. -/
def DiCache.zero : DiCache := ⟨0, 0, 0, 0, 0, 0, 0, 0, 0, 0⟩

/-- The machine right after reset (R32), with `READY_TIMEOUT` at its default NONE (R6), nothing on record and no
input queued. -/
def State.reset : State where
  phase := .idle
  req := none
  todo := []
  cs := false
  diValid := false
  lastErr := .ok
  di := DiCache.zero
  packGeom := 0
  rx := []
  wcount := 0
  readyTimeout := none
  trace := []
  responses := []
  port := []
  rstIn := []
  hrdyIn := []
  misoIn := []
  hrdyDrawn := 0
  misoDrawn := 0

end Sys2Proof.Machine
end

