-- ==== Sys2Proof/Machine/DevInfo.lean ====
section
/-! DEFINITION. The value functions of the status decoder (44_status_decoder.md): device info, panel containment,
VCOM, temperature and display-ready. None touches the bus or the state. -/

namespace Sys2Proof.Machine

/-- The decoded device info (R191). -/
structure DevInfo where
  width  : Word
  height : Word
  fbAddr : Word32
  fw     : List Byte
  lut    : List Byte
  deriving DecidableEq, Repr

/-- `Str(v)` (R192): each word high byte then low byte, verbatim. -/
def versionString (ws : List Word) : List Byte := ws.flatMap fun w => [hi w, lo w]

/-- `DevInfo(w)` (R191), for a list of exactly 20 words; the callers give no other. -/
def devInfo (w : List Word) : DevInfo where
  width := w.getD 0 0
  height := w.getD 1 0
  fbAddr := w.getD 3 0 ++ w.getD 2 0
  fw := versionString ((w.drop 4).take 8)
  lut := versionString ((w.drop 12).take 8)

/-- `DevInfoData(info)` (R201): the 36 response entries. -/
def devInfoData (i : DevInfo) : List Word :=
  [i.width, i.height, i.fbAddr.extractLsb' 0 16, i.fbAddr.extractLsb' 16 16]
    ++ i.fw.map (BitVec.setWidth 16) ++ i.lut.map (BitVec.setWidth 16)

/-- Bytes 4j to 4j+3 of a version string in one CSR, byte 4j in bits `[7:0]` (R26, R194). -/
def versionReg (bs : List Byte) (j : Nat) : Word32 :=
  bs.getD (4 * j + 3) 0 ++ bs.getD (4 * j + 2) 0 ++ bs.getD (4 * j + 1) 0 ++ bs.getD (4 * j) 0

/-- The cache contents QUERY_DEVINFO writes on success (R194). -/
def cacheOf (i : DevInfo) : DiCache where
  dims := i.height ++ i.width
  fbAddr := i.fbAddr
  fw0 := versionReg i.fw 0
  fw1 := versionReg i.fw 1
  fw2 := versionReg i.fw 2
  fw3 := versionReg i.fw 3
  lut0 := versionReg i.lut 0
  lut1 := versionReg i.lut 1
  lut2 := versionReg i.lut 2
  lut3 := versionReg i.lut 3

/-- A zero width or height "signals a communication failure" (R194). -/
def DevInfo.commFailure (i : DevInfo) : Bool := i.width == 0 || i.height == 0

/-- `DisplayReady(v) ⇔ v = 0x0000` (R200). -/
def displayReady (v : Word) : Bool := v == 0

/-- A rectangle (R11, R197), "all non-negative integers". -/
structure Rect where
  x      : Nat
  y      : Nat
  width  : Nat
  height : Nat
  deriving DecidableEq, Repr

/-- `DI_DIMS.WIDTH` (R26). -/
def DiCache.width (c : DiCache) : Word := c.dims.extractLsb' 0 16

/-- `DI_DIMS.HEIGHT` (R26). -/
def DiCache.height (c : DiCache) : Word := c.dims.extractLsb' 16 16

/-- Byte `fw[n]` of the cached firmware version, `DI_FWj[8k+7:8k]` for n = 4j + k (R26). -/
def DiCache.fwByte (c : DiCache) (n : Nat) : Byte :=
  (match n / 4 with | 0 => c.fw0 | 1 => c.fw1 | 2 => c.fw2 | 3 => c.fw3 | _ => 0).extractLsb' (8 * (n % 4)) 8

/-- Byte `lut[n]` of the cached LUT version (R26). -/
def DiCache.lutByte (c : DiCache) (n : Nat) : Byte :=
  (match n / 4 with | 0 => c.lut0 | 1 => c.lut1 | 2 => c.lut2 | 3 => c.lut3 | _ => 0).extractLsb' (8 * (n % 4)) 8

/-- The panel rectangle, defined only while DI_VALID = 1 (R35). -/
def panelRect (s : State) : Option Rect :=
  if s.diValid then some ⟨0, 0, s.di.width.toNat, s.di.height.toNat⟩ else none

/-- `Contained(r)` (R197), on unbounded naturals. -/
def contained (s : State) (r : Rect) : Bool :=
  match panelRect s with
  | none => false
  | some p => decide (r.x + r.width ≤ p.width) && decide (r.y + r.height ≤ p.height)

/-- `VcomEncode(mV)` (R198); an error is E_PRECOND. -/
def vcomEncode (mV : Int) : Except Status Word :=
  if mV ≥ 0 then .error .precond
  else if -mV > 65535 then .error .precond
  else .ok (BitVec.ofNat 16 mV.natAbs)

/-- `VcomDecode(word) = -word` (R198). -/
def vcomDecode (w : Word) : Int := -(w.toNat : Int)

/-- `TempDecode(t0, t1)` as (measured, forced), under a named order (R199). -/
def tempDecode (order : TempOrder) (t0 t1 : Word) : Word × Word :=
  match order with
  | .measuredFirst => (t0, t1)
  | .forcedFirst => (t1, t0)

/-- `TempDecode` under the block's own `TEMP_ORDER`, which stays open (R199). -/
def tempDecodeOpen (t0 t1 : Word) : Word × Word := tempDecode Config.tempOrder t0 t1

end Sys2Proof.Machine
end

