-- ==== Sys2Proof/Machine/Packing.lean ====
section
/-! DEFINITION. The value functions of the pixel packer (43_pixel_packer.md): padding, nibble packing, the depth table
and the ImageInfo word. -/

namespace Sys2Proof.Machine

/-- `floor4(n)` (R7). -/
def floor4 (n : Nat) : Nat := n - n % 4

/-- `ceil4(n)` (R7). -/
def ceil4 (n : Nat) : Nat := floor4 (n + 3)

/-- `Supported(d, e)` (R171). -/
def packSupported (d : Depth) (e : Endian) : Bool := d == .d4 && e == .little

/-- `Pack4(p0, p1, p2, p3)` (R172): p0 in bits `[3:0]`. -/
def pack4 (p0 p1 p2 p3 : BitVec 4) : Word :=
  p0.setWidth 16 ||| (p1.setWidth 16 <<< 4) ||| (p2.setWidth 16 <<< 8) ||| (p3.setWidth 16 <<< 12)

/-- The words of a padded row, left to right (R170). A row's length is a multiple of 4. -/
def packRow : List (BitVec 4) → List Word
  | p0 :: p1 :: p2 :: p3 :: rest => pack4 p0 p1 p2 p3 :: packRow rest
  | _ => []

/-- `lead`, the zero pixels before a row's first pixel (R173). -/
def padLead (x : Nat) : Nat := x - floor4 x

/-- `trail`, the zero pixels after a row's last pixel (R173). -/
def padTrail (x w : Nat) : Nat := ceil4 (x + w) - (x + w)

/-- One padded row (R173). -/
def padRow (x w : Nat) (row : List (BitVec 4)) : List (BitVec 4) :=
  List.replicate (padLead x) 0 ++ row ++ List.replicate (padTrail x w) 0

/-- Row `r` of a row-major pixel list of width `w` (R77). -/
def pixelRow (w : Nat) (pixels : List (BitVec 4)) (r : Nat) : List (BitVec 4) := (pixels.drop (r * w)).take w

/-- The packed words of a rectangle, top row first (R170). -/
def packWords (x w h : Nat) (pixels : List (BitVec 4)) : List Word :=
  (List.range h).flatMap fun r => packRow (padRow x w (pixelRow w pixels r))

/-- `WPR`, the packed words per row (R28). -/
def wordsPerRow (x w : Nat) : Nat := (ceil4 (x + w) - floor4 x) / 4

/-- `PACK_GEOM = (WPR << 16) | X0` (R28, R170). -/
def packGeomOf (x w : Nat) : Word32 := BitVec.ofNat 16 (wordsPerRow x w) ++ BitVec.ofNat 16 (floor4 x)

/-- `ppb(d)` (R175). No operation of the block reads it. -/
def pixelsPerByte : Depth → Nat
  | .d1 => 8
  | .d2 => 4
  | .d3 => 2
  | .d4 => 2
  | .d8 => 1

/-- `ImageInfoWord(e, d, r)` (R176), which the HOST supplies after an LD_IMG command. -/
def imageInfoWord (e : Endian) (d : Depth) (rotation : Nat) : Word :=
  Config.imageInfoLayout (Config.endianWireCode e) (Config.bppWireCode d) (Config.rotationWireCode rotation)

end Sys2Proof.Machine
end

