-- ==== Sys2Proof/Machine/Operands.lean ====
section
/-! DEFINITION. Operand assembly (R77) and the bus bodies of the framer primitives as programs of acts (R62, R104 to
R107, R154). -/

namespace Sys2Proof.Machine

/-- The rectangle of a packer payload, `x, y, w, h = payload[0..3]` (R77); none if it is missing (R174 a). -/
def payloadRect : List Word → Option (Word × Word × Word × Word)
  | x :: y :: w :: h :: _ => some (x, y, w, h)
  | _ => none

/-- The pixel entries of a packer payload (R77). -/
def payloadPixels (payload : List Word) : List Word := payload.drop 4

/-- A pixel in the 4 bpp range 0 to 15 (R174 d). -/
def pixelInRange (p : Word) : Bool := decide (p.toNat ≤ 15)

/-- A transaction's first act; a read starts with nothing received (R107). -/
def startAct : Preamble → Act
  | .cmd => .csOn
  | .wr => .csOn
  | .rd => .rdOn

/-- `CsAssert(); WaitReady(); Xfer16(preamble)`: how every transaction begins (R61, R100). -/
def opening (p : Preamble) : List Act := [startAct p, .ready, .pre p]

/-- `CmdTxn(c)` (R62, R104). -/
def cmdTxn (c : Word) : List Act := opening .cmd ++ [.ready, .x16 c, .csOff]

/-- `WrTxn(ws)` (R62, R105). -/
def wrTxn (ws : List Word) : List Act := opening .wr ++ ws.flatMap (fun w => [.ready, .x16 w]) ++ [.csOff]

/-- `WrBTxn(bs)` (R62, R106): one wait after the preamble, none between bytes. -/
def wrBTxn (bs : List Byte) : List Act :=
  opening .wr ++ (if bs.isEmpty then [] else .ready :: bs.map Act.x8) ++ [.csOff]

/-- `RdTxn(N)` (R62, R107): N + 1 filler words after the preamble. -/
def rdTxn (n : Nat) : List Act :=
  opening .rd ++ (List.replicate (n + 1) [Act.ready, Act.fill]).flatten ++ [.csOff]

/-- The bus part of READ_REG and of one display-ready poll (R152, R156). -/
def readRegTxns (a : Word) : List Act := cmdTxn 0x0010 ++ wrTxn [a] ++ rdTxn 1

/-- One turn of WAIT_DPY_READY's loop (R156). -/
def pollProgram (a : Word) : List Act := readRegTxns a ++ [.done (.poll a)]

end Sys2Proof.Machine
end

