-- ==== Sys2Proof/Machine/Ops.lean ====
section
/-! DEFINITION. The pseudocode primitives of R9, each once: chip-select, the ready-wait, the exchanges, Respond and
raise; reset (R240); and the ENGINE that runs a program of them up to its next hold (R22). -/

namespace Sys2Proof.Machine

/-! ### Trace, chip-select, exchanges -/

/-- Append one event (R29). -/
def emit (e : Event) (s : State) : State := { s with trace := s.trace ++ [e] }

/-- `CsAssert()` (R9). -/
def csAssert (s : State) : State := emit .cs1 { s with cs := true }

/-- `CsDeassert()` (R9). -/
def csDeassert (s : State) : State := emit .cs0 { s with cs := false }

/-- The byte received by one `ByteExchange` (R103): the next queued one, else a free value. -/
def nextMiso (s : State) : Byte :=
  match s.misoIn with
  | b :: _ => b
  | [] => Config.misoDraw s.misoDrawn

/-- The state after one `ByteExchange` (R103). -/
def takeMiso (s : State) : State :=
  match s.misoIn with
  | _ :: rest => { s with misoIn := rest }
  | [] => { s with misoDrawn := s.misoDrawn + 1 }

/-- The word received by one `Xfer16` (R102): `(b0 << 8) | b1`. -/
def nextWord (s : State) : Word := joinBytes (nextMiso s) (nextMiso (takeMiso s))

/-- `Xfer16(o)` (R102), its event appended. -/
def xfer16 (o : Word) (s : State) : State := emit (.x16 o (nextWord s)) (takeMiso (takeMiso s))

/-- `Xfer8(o)` (R103), its event appended. -/
def xfer8 (o : Byte) (s : State) : State := emit (.x8 o (nextMiso s)) (takeMiso s)

/-! ### The ready-wait (R101) -/

/-- What taking HRDY samples leads to: an asserted one, the end of the queue, or the timeout. -/
inductive Sampled where
  | ready (rest : List Bool)
  | hold (wcount : Nat)
  | timeout (rest : List Bool) (wcount : Nat)
  deriving DecidableEq, Repr

/-- `while sample(hrdy) = 0` over the queued samples (R101). With `READY_TIMEOUT = NONE` nothing is counted. -/
def sampleHrdy (limit : Option Nat) : List Bool → Nat → Sampled
  | [], wc => .hold wc
  | true :: rest, _ => .ready rest
  | false :: rest, wc =>
    match limit with
    | none => sampleHrdy limit rest wc
    | some k => if wc + 1 ≥ k then .timeout rest (wc + 1) else sampleHrdy limit rest (wc + 1)

/-! ### Responses and errors -/

/-- `Respond(status, data)` (R211). The micro-state, `rx` and `wcount` exist only while BUSY (R22, R31), and the latch
does not outlive its request (R34). -/
def respond (st : Status) (data : List Word) (s : State) : State :=
  { s with
    phase := .idle
    lastErr := st
    responses := s.responses ++ [⟨st, data⟩]
    req := none
    todo := []
    rx := []
    wcount := 0 }

/-- `raise E` (R212): chip-select released if it was asserted, then an error response without data. -/
def raiseError (e : Status) (s : State) : State :=
  respond e [] (if s.cs then csDeassert s else s)

/-! ### Reset (R240) -/

/-- Reset: `CsDeassert()` if `cs = 1`, the request abandoned with no response, every piece of state as R32 says. The
records, the waiting requests, the inputs and the configuration are not the block's state (R32, R36, R210). -/
def applyReset (s : State) : State :=
  { State.reset with
    readyTimeout := s.readyTimeout
    trace := if s.cs then s.trace ++ [.cs0] else s.trace
    responses := s.responses
    port := s.port
    rstIn := s.rstIn
    hrdyIn := s.hrdyIn
    misoIn := s.misoIn
    hrdyDrawn := s.hrdyDrawn
    misoDrawn := s.misoDrawn }

/-- The level of `rst` at this program point. -/
def rstAsserted (s : State) : Bool := s.rstIn.headD false

/-- The sample of `rst` is taken. -/
def takeRst (s : State) : State := { s with rstIn := s.rstIn.tail }

/-! ### The ends of the operations -/

/-- The end of a request (R104 to R107, R150, R152, R156, R170, R190, R194). -/
def finish (f : Finish) (s : State) : State :=
  match f with
  | .ok data => respond .ok data s
  | .fail e => raiseError e s
  | .pack geom out => respond .ok out { s with packGeom := geom }
  | .readWords => respond .ok (s.rx.drop 2) s
  | .poll a =>
    if displayReady ((s.rx.drop 2).headD 0) then respond .ok [] s else { s with todo := pollProgram a, rx := [] }
  | .devInfo =>
    let info := devInfo (s.rx.drop 2)
    if info.commFailure then raiseError .comm { s with diValid := false }
    else respond .ok (devInfoData info) { s with di := cacheOf info, diValid := true }

/-! ### The ENGINE -/

/-- How one act ends: the program goes on, it holds in a ready-wait, or the request is over (or starts its next poll). -/
inductive Progress where
  | go (s : State)
  | hold (s : State)
  | ended (s : State)
  deriving DecidableEq, Repr

/-- `WaitReady()` on the queued samples (R101): `RDY`, the hold, or E_TIMEOUT. `wcount` counts in the current ready-wait
only (R31). -/
def waitReady (s : State) : Progress :=
  match sampleHrdy s.readyTimeout s.hrdyIn s.wcount with
  | .ready rest => .go (emit .rdy { s with hrdyIn := rest, wcount := 0 })
  | .hold wc => .hold { s with hrdyIn := [], wcount := wc }
  | .timeout rest wc => .ended (raiseError .timeout { s with hrdyIn := rest, wcount := wc })

/-- The preamble's exchange (R61): a read keeps its word as raw word 0, the first of `rx` (R107), the others discard it
(R109). -/
def xferPreamble (p : Preamble) (s : State) : State :=
  match p with
  | .cmd => xfer16 (preambleWord .cmd) s
  | .wr => xfer16 (preambleWord .wr) s
  | .rd => xfer16 (preambleWord .rd) { s with rx := [nextWord s] }

/-- One act. -/
def perform (a : Act) (s : State) : Progress :=
  match a with
  | .csOn => .go (csAssert s)
  | .rdOn => .go (csAssert { s with rx := [] })
  | .csOff => .go (csDeassert s)
  | .ready => waitReady { s with wcount := 0 }
  | .wait => waitReady s
  | .pre p => .go (xferPreamble p s)
  | .x16 o => .go (xfer16 o s)
  | .fill => .go (xfer16 0x0000 { s with rx := s.rx ++ [nextWord s] })
  | .x8 o => .go (xfer8 o s)
  | .done f => .ended (finish f s)

/-- Run the acts `now` and leave `later` to do. `rst` is sampled before every act, so a reset falls between two
exchanges and never inside one (R50, R240 a). -/
def run : List Act → List Act → State → State
  | [], later, s => { s with todo := later }
  | a :: now, later, s =>
    if rstAsserted s then applyReset (takeRst s)
    else match perform a (takeRst s) with
      | .go t => run now later t
      | .hold t => { t with todo := .wait :: (now ++ later) }
      | .ended t => t

/-- A request's start (R22, R31): BUSY, `rx` empty, `wcount` 0. -/
def begin (s : State) : State := { s with phase := .busy, rx := [], wcount := 0 }

/-- Run a whole request's program from its start. -/
def issue (program : List Act) (s : State) : State := run program [] (begin s)

/-- Begin a transaction and leave what the ENGINE had to do after it. -/
def openTxn (p : Preamble) (s : State) : State := run (opening p) s.todo s

/-! ### Acceptance and resumption -/

/-- The ENGINE takes the first waiting request into its latch (R22, R23, R210). -/
def accept (r : Request) (s : State) : State := { s with phase := .busy, req := some r, port := s.port.tail }

/-- One fresh HRDY sample, a free value, where no queued one is left (R5, R101). -/
def supplyHrdy (s : State) : State :=
  match s.hrdyIn with
  | _ :: _ => s
  | [] => { s with hrdyIn := [Config.hrdyDraw s.hrdyDrawn], hrdyDrawn := s.hrdyDrawn + 1 }

/-- Go on with a request from where it holds (R22). -/
def resume (s : State) : State := run s.todo [] (supplyHrdy s)

/-- The answer to an encoding violation (R75, R216). -/
def rejectIllegal (s : State) : State := issue [.done (.fail .illegal)] s

/-- What the ENGINE takes up next: the first waiting request when IDLE (R210); when BUSY at the start of a transaction,
the preamble that opens it (R61). -/
def fetch (s : State) : Option Fetched :=
  match s.phase with
  | .idle => match s.port with
    | r :: _ => some (.request r)
    | [] => none
  | .busy => match s.todo with
    | .csOn :: .ready :: .pre .cmd :: _ => some (.wire (preambleWord .cmd))
    | .csOn :: .ready :: .pre .wr :: _ => some (.wire (preambleWord .wr))
    | .rdOn :: .ready :: .pre .rd :: _ => some (.wire (preambleWord .rd))
    | _ => none

/-- What the step does to the state before it runs what it fetched: the request is accepted, or the preamble's own acts
leave the micro-state. -/
def takeUp (f : Fetched) (s : State) : State :=
  match f with
  | .request r => accept r s
  | .wire _ => { s with todo := s.todo.drop 3 }

end Sys2Proof.Machine
end

