-- ==== Sys2Proof/Machine/Framer.lean ====
section
/-! DEFINITION. The four framer operations (40_framer.md) and the three preambles (R61). -/

namespace Sys2Proof.Machine

/-- SEND_CMD's program (R104). -/
def sendCmdProgram (c : Word) : List Act := cmdTxn c ++ [.done (.ok [])]

/-- SEND_CMD (R104). -/
def execSendCmd (c : Word) (s : State) : Host.Outcome State Fault Refusal := .next (issue (sendCmdProgram c) s)

/-- WRITE_DATA's program (R105, R108): nothing on the bus for no words. -/
def writeDataProgram (ws : List Word) : List Act :=
  if ws.isEmpty then [.done (.ok [])] else wrTxn ws ++ [.done (.ok [])]

/-- WRITE_DATA (R105). -/
def execWriteData (ws : List Word) (s : State) : Host.Outcome State Fault Refusal :=
  .next (issue (writeDataProgram ws) s)

/-- WRITE_BYTES' program (R106): the preamble goes out for no bytes, too. -/
def writeBytesProgram (bs : List Byte) : List Act := wrBTxn bs ++ [.done (.ok [])]

/-- WRITE_BYTES (R106). -/
def execWriteBytes (bs : List Byte) (s : State) : Host.Outcome State Fault Refusal :=
  .next (issue (writeBytesProgram bs) s)

/-- READ_DATA's program (R107, R108): nothing on the bus for N = 0. -/
def readDataProgram (n : Nat) : List Act :=
  if n == 0 then [.done (.ok [])] else rdTxn n ++ [.done .readWords]

/-- READ_DATA (R107). -/
def execReadData (n : Nat) (s : State) : Host.Outcome State Fault Refusal := .next (issue (readDataProgram n) s)

/-- PREAMBLE_CMD (R61): a command transaction begins; what follows it is the ENGINE's program. -/
def execPreambleCmd (s : State) : Host.Outcome State Fault Refusal := .next (openTxn .cmd s)

/-- PREAMBLE_WR (R61): a write transaction begins. -/
def execPreambleWr (s : State) : Host.Outcome State Fault Refusal := .next (openTxn .wr s)

/-- PREAMBLE_RD (R61): a read transaction begins; the raw word 0 is kept in `rx` (R107). -/
def execPreambleRd (s : State) : Host.Outcome State Fault Refusal := .next (openTxn .rd s)

end Sys2Proof.Machine
end

