-- ==== Sys2Proof/Machine/Commands.lean ====
section
/-! DEFINITION. The twenty-one chip command opcodes (41_commands.md): each is SEND_CMD's pseudocode (R104) with its own
opcode. The chip's reaction is not the block's (R4, R5). -/

namespace Sys2Proof.Machine

/-- SYS_RUN (R120). -/
def execSysRun (s : State) : Host.Outcome State Fault Refusal := .next (issue (sendCmdProgram 0x0001) s)

/-- STANDBY (R121). -/
def execStandby (s : State) : Host.Outcome State Fault Refusal := .next (issue (sendCmdProgram 0x0002) s)

/-- SLEEP (R122). -/
def execSleep (s : State) : Host.Outcome State Fault Refusal := .next (issue (sendCmdProgram 0x0003) s)

/-- REG_RD (R123). -/
def execRegRd (s : State) : Host.Outcome State Fault Refusal := .next (issue (sendCmdProgram 0x0010) s)

/-- REG_WR (R124). -/
def execRegWr (s : State) : Host.Outcome State Fault Refusal := .next (issue (sendCmdProgram 0x0011) s)

/-- BURST_12 (R125). -/
def execBurst12 (s : State) : Host.Outcome State Fault Refusal := .next (issue (sendCmdProgram 0x0012) s)

/-- BURST_13 (R126). -/
def execBurst13 (s : State) : Host.Outcome State Fault Refusal := .next (issue (sendCmdProgram 0x0013) s)

/-- BURST_14 (R127). -/
def execBurst14 (s : State) : Host.Outcome State Fault Refusal := .next (issue (sendCmdProgram 0x0014) s)

/-- BURST_15 (R128). -/
def execBurst15 (s : State) : Host.Outcome State Fault Refusal := .next (issue (sendCmdProgram 0x0015) s)

/-- LD_IMG_20 (R129). -/
def execLdImg20 (s : State) : Host.Outcome State Fault Refusal := .next (issue (sendCmdProgram 0x0020) s)

/-- LD_IMG_21 (R130). -/
def execLdImg21 (s : State) : Host.Outcome State Fault Refusal := .next (issue (sendCmdProgram 0x0021) s)

/-- LD_IMG_22 (R131). -/
def execLdImg22 (s : State) : Host.Outcome State Fault Refusal := .next (issue (sendCmdProgram 0x0022) s)

/-- LD_IMG_95 (R132). -/
def execLdImg95 (s : State) : Host.Outcome State Fault Refusal := .next (issue (sendCmdProgram 0x0095) s)

/-- DPY_AREA (R133). -/
def execDpyArea (s : State) : Host.Outcome State Fault Refusal := .next (issue (sendCmdProgram 0x0034) s)

/-- DPY_BUF_AREA (R134). -/
def execDpyBufArea (s : State) : Host.Outcome State Fault Refusal := .next (issue (sendCmdProgram 0x0037) s)

/-- POWER_SEQUENCE (R135). -/
def execPowerSequence (s : State) : Host.Outcome State Fault Refusal := .next (issue (sendCmdProgram 0x0038) s)

/-- CMD_VCOM (R136). -/
def execCmdVcom (s : State) : Host.Outcome State Fault Refusal := .next (issue (sendCmdProgram 0x0039) s)

/-- FILL_RECT (R137). -/
def execFillRect (s : State) : Host.Outcome State Fault Refusal := .next (issue (sendCmdProgram 0x003A) s)

/-- CMD_TEMPERATURE (R138). -/
def execCmdTemperature (s : State) : Host.Outcome State Fault Refusal := .next (issue (sendCmdProgram 0x0040) s)

/-- BPP_SETTINGS (R139). -/
def execBppSettings (s : State) : Host.Outcome State Fault Refusal := .next (issue (sendCmdProgram 0x0080) s)

/-- GET_DEV_INFO (R140). -/
def execGetDevInfo (s : State) : Host.Outcome State Fault Refusal := .next (issue (sendCmdProgram 0x0302) s)

end Sys2Proof.Machine
end

