-- ==== Sys2Proof/Machine/Packer.lean ====
section
/-! DEFINITION. PACK_PIXELS (43_pixel_packer.md). -/

namespace Sys2Proof.Machine

/-- The packer's checks in R215's order, E_UNIMPL before E_PRECOND, then the packing (R170, R171, R174). E_ILLEGAL is
the decoder's (R75). -/
def packResult (d : Depth) (e : Endian) (p : List Word) : Finish :=
  if !packSupported d e then .fail .unimpl
  else match payloadRect p with
    | none => .fail .precond
    | some (x, _, w, h) =>
      let pixels := payloadPixels p
      if w == 0 || h == 0 then .fail .precond
      else if pixels.length != w.toNat * h.toNat then .fail .precond
      else if !pixels.all pixelInRange then .fail .precond
      else .pack (packGeomOf x.toNat w.toNat)
        (packWords x.toNat w.toNat h.toNat (pixels.map (BitVec.setWidth 4)))

/-- PACK_PIXELS (R170): no bus activity in any case. -/
def execPackPixels (d : Depth) (e : Endian) (p : List Word) (s : State) : Host.Outcome State Fault Refusal :=
  .next (issue [.done (packResult d e p)] s)

end Sys2Proof.Machine
end

