-- ==== Sys2Proof/Machine/RegisterEngine.lean ====
section
/-! DEFINITION. The register read/write engine (42_register_engine.md): whole transactions one after another (R154). -/

namespace Sys2Proof.Machine

/-- WRITE_REG's program (R150). -/
def writeRegProgram (a v : Word) : List Act := cmdTxn 0x0011 ++ wrTxn [a, v] ++ [.done (.ok [])]

/-- WRITE_REG (R150). -/
def execWriteReg (a v : Word) (s : State) : Host.Outcome State Fault Refusal := .next (issue (writeRegProgram a v) s)

/-- READ_REG's program (R152). -/
def readRegProgram (a : Word) : List Act := readRegTxns a ++ [.done .readWords]

/-- READ_REG (R152). -/
def execReadReg (a : Word) (s : State) : Host.Outcome State Fault Refusal := .next (issue (readRegProgram a) s)

/-- WAIT_DPY_READY (R156): polls until one reads zero; a poll that does not leaves the ENGINE at the loop's head (R157). -/
def execWaitDpyReady (a : Word) (s : State) : Host.Outcome State Fault Refusal := .next (issue (pollProgram a) s)

end Sys2Proof.Machine
end

