-- ==== Sys2Proof/Machine/StatusDecoder.lean ====
section
/-! DEFINITION. The device-info operations (44_status_decoder.md). -/

namespace Sys2Proof.Machine

/-- DECODE_DEVINFO's result (R190, R193). -/
def decodeResult (ws : List Word) : Finish :=
  if ws.length != 20 then .fail .size else .ok (devInfoData (devInfo ws))

/-- DECODE_DEVINFO (R190): no bus activity, and the cache is not written. -/
def execDecodeDevinfo (ws : List Word) (s : State) : Host.Outcome State Fault Refusal :=
  .next (issue [.done (decodeResult ws)] s)

/-- QUERY_DEVINFO's program (R194). -/
def queryDevinfoProgram : List Act := cmdTxn 0x0302 ++ rdTxn 20 ++ [.done .devInfo]

/-- QUERY_DEVINFO (R194). -/
def execQueryDevinfo (s : State) : Host.Outcome State Fault Refusal := .next (issue queryDevinfoProgram s)

end Sys2Proof.Machine
end

