-- ==== Sys2Proof/Machine/Dispatch.lean ====
section
/-! DEFINITION. One arm per row of spec/opcode_table.json, in the table's order. -/

namespace Sys2Proof.Machine

def exec (i : Instr) (s : State) : Host.Outcome State Fault Refusal :=
  match i with
  | .sendCmd c => Sys2Proof.Machine.execSendCmd c s
  | .writeData ws => Sys2Proof.Machine.execWriteData ws s
  | .writeBytes bs => Sys2Proof.Machine.execWriteBytes bs s
  | .readData n => Sys2Proof.Machine.execReadData n s
  | .writeReg a v => Sys2Proof.Machine.execWriteReg a v s
  | .readReg a => Sys2Proof.Machine.execReadReg a s
  | .waitDpyReady a => Sys2Proof.Machine.execWaitDpyReady a s
  | .packPixels d e p => Sys2Proof.Machine.execPackPixels d e p s
  | .decodeDevinfo ws => Sys2Proof.Machine.execDecodeDevinfo ws s
  | .queryDevinfo => Sys2Proof.Machine.execQueryDevinfo s
  | .preambleCmd => Sys2Proof.Machine.execPreambleCmd s
  | .preambleWr => Sys2Proof.Machine.execPreambleWr s
  | .preambleRd => Sys2Proof.Machine.execPreambleRd s
  | .sysRun => Sys2Proof.Machine.execSysRun s
  | .standby => Sys2Proof.Machine.execStandby s
  | .sleep => Sys2Proof.Machine.execSleep s
  | .regRd => Sys2Proof.Machine.execRegRd s
  | .regWr => Sys2Proof.Machine.execRegWr s
  | .burst12 => Sys2Proof.Machine.execBurst12 s
  | .burst13 => Sys2Proof.Machine.execBurst13 s
  | .burst14 => Sys2Proof.Machine.execBurst14 s
  | .burst15 => Sys2Proof.Machine.execBurst15 s
  | .ldImg20 => Sys2Proof.Machine.execLdImg20 s
  | .ldImg21 => Sys2Proof.Machine.execLdImg21 s
  | .ldImg22 => Sys2Proof.Machine.execLdImg22 s
  | .ldImg95 => Sys2Proof.Machine.execLdImg95 s
  | .dpyArea => Sys2Proof.Machine.execDpyArea s
  | .dpyBufArea => Sys2Proof.Machine.execDpyBufArea s
  | .powerSequence => Sys2Proof.Machine.execPowerSequence s
  | .cmdVcom => Sys2Proof.Machine.execCmdVcom s
  | .fillRect => Sys2Proof.Machine.execFillRect s
  | .cmdTemperature => Sys2Proof.Machine.execCmdTemperature s
  | .bppSettings => Sys2Proof.Machine.execBppSettings s
  | .getDevInfo => Sys2Proof.Machine.execGetDevInfo s

end Sys2Proof.Machine
end

