-- ==== Sys2Proof/Machine/Step.lean ====
section
/-! DEFINITION. One step: `rst` first (R240), then the next thing the ENGINE takes up, or, where there is none, the
request it is in the middle of (R22, R210; log entry 6). -/

namespace Sys2Proof.Machine

/-- Nothing to take up: an IDLE block waits, a BUSY one goes on where it holds. -/
def proceed (s : State) : Host.Outcome State Fault Refusal :=
  match s.phase with
  | .idle => .next s
  | .busy => if s.todo.isEmpty then .fault .busyWithoutProgram else .next (resume s)

/-- A step in which `rst` is not asserted. -/
def stepLive (s : State) : Host.Outcome State Fault Refusal :=
  match fetch s with
  | none => proceed s
  | some f => match decode f with
    | .instr i => exec i (takeUp f s)
    | .violation _ => .next (rejectIllegal (takeUp f s))
    | .badLength => .refused .illFormedRequest
    | .noRow => .refused .noSuchWireWord

def step (s : State) : Host.Outcome State Fault Refusal :=
  if rstAsserted s then .next (applyReset (takeRst s)) else stepLive (takeRst s)

/-- The state in which the very next step runs an opcode-table word (log entry 5). A request goes to the head of the
port of an IDLE block; a listed command opcode is the SEND_CMD request of it; a preamble is what a BUSY ENGINE is about
to open a transaction with. -/
def State.withFetchWord (s : State) (nbits w : Nat) : State :=
  let offer (r : Request) : State := { s with phase := .idle, port := r :: s.port, rstIn := [] }
  let opens (p : Preamble) : State := { s with phase := .busy, todo := opening p ++ s.todo, rstIn := [] }
  if nbits ≤ 16 then
    match w % 65536 with
    | 0x6000 => opens .cmd
    | 0x0000 => opens .wr
    | 0x1000 => opens .rd
    | _ => offer (cmdRequest (BitVec.ofNat 16 w))
  else offer (requestOfNat w)

end Sys2Proof.Machine
end

