-- ==== Sys2Proof/Machine/Flags.lean ====
section
/-! DEFINITION. The status bits and the CSR read port (R24, R25, R26, R28). The block has no arithmetic flags (R33). -/

namespace Sys2Proof.Machine

/-- The numeric status codes (R213). -/
def statusCode : Status → BitVec 3
  | .ok => 0
  | .size => 1
  | .precond => 2
  | .unimpl => 3
  | .comm => 4
  | .illegal => 5
  | .timeout => 6

/-- `STATUS.BUSY` (R22, R25). -/
def busyBit (s : State) : Bool := s.phase == .busy

/-- The STATUS word (R25), with HRDY as sampled at the read: that bit is a draw, not state. -/
def statusWord (hrdy : Bool) (s : State) : Word32 :=
  0#25 ++ BitVec.ofBool hrdy ++ BitVec.ofBool s.cs ++ statusCode s.lastErr ++ BitVec.ofBool s.diValid
    ++ BitVec.ofBool (busyBit s)

/-- The PARAM word (R24): TIMEOUT_EN, the rest 0. -/
def paramWord (s : State) : Word32 := if s.readyTimeout.isSome then 1 else 0

/-- A read of `CSR[n]` (R24), with the HRDY sample taken at the read. It has no side effect. -/
def readCsr (n : Nat) (hrdy : Bool) (s : State) : Word32 :=
  match n with
  | 0 => statusWord hrdy s
  | 1 => s.di.dims
  | 2 => s.di.fbAddr
  | 3 => s.di.fw0
  | 4 => s.di.fw1
  | 5 => s.di.fw2
  | 6 => s.di.fw3
  | 7 => s.di.lut0
  | 8 => s.di.lut1
  | 9 => s.di.lut2
  | 10 => s.di.lut3
  | 11 => s.packGeom
  | 12 => paramWord s
  | _ => 0

/-- A write to any CSR number is ignored (R24). -/
def writeCsr (_n : Nat) (_value : Word32) (s : State) : State := s

/-- `PACK_GEOM.X0` (R28). -/
def geomX0 (s : State) : Word := s.packGeom.extractLsb' 0 16

/-- `PACK_GEOM.WPR` (R28). -/
def geomWpr (s : State) : Word := s.packGeom.extractLsb' 16 16

end Sys2Proof.Machine
end

