-- ==== Sys2Proof/Machine/HostSide.lean ====
section
/-! DEFINITION. What the HOST does with the block: the pseudo-instructions (R81), the boot order (R242, R243), the
electrical levels of the pins (R27), and the names of the chip's register blocks (R42). -/

namespace Sys2Proof.Machine

/-- The pseudo-instructions (R81). -/
inductive Pseudo where
  | run
  | standby
  | sleep
  | waitLut
  | packedOn
  | setFb (a32 : Word32)
  deriving DecidableEq, Repr

/-- A REGW line's request (R80). -/
def regwRequest (a v : Word) : Request := plainRequest 0x5 a 1 [v]

/-- A WAITDPY line's request (R80). -/
def waitDpyRequest (a : Word) : Request := plainRequest 0x7 a 0 []

/-- The GETDI line's request (R80). -/
def getDiRequest : Request := plainRequest 0xA 0 0 []

/-- The expansions (R81); SETFB writes the high half first (D19). -/
def Pseudo.expand : Pseudo → List Request
  | .run => [cmdRequest 0x0001]
  | .standby => [cmdRequest 0x0002]
  | .sleep => [cmdRequest 0x0003]
  | .waitLut => [waitDpyRequest Config.lutStatusAddr]
  | .packedOn => [regwRequest Config.packedModeAddr Config.packedModeValue]
  | .setFb a32 => [regwRequest Config.fbBaseHiAddr (a32.extractLsb' 16 16),
      regwRequest Config.fbBaseLoAddr (a32.extractLsb' 0 16)]

/-- The initialization order up to the VCOM step (R242), the frame-buffer address being the queried one. The HOST
issues each request only after an OK response to the one before; the block does not enforce that. -/
def bootSequence (fbAddr : Word32) : List Request :=
  getDiRequest :: ((Pseudo.setFb fbAddr).expand ++ Pseudo.packedOn.expand)

/-- The requests that set VCOM (R198, R243), framed by the OPEN `VCOM_PERSIST_ENCODING`. -/
def vcomRequests (mV : Int) (persist : Bool) : Except Status (List Request) :=
  (vcomEncode mV).map fun w => Config.vcomPersistEncoding w persist

/-- The HOST puts a request behind those already waiting (R210). -/
def offer (r : Request) (s : State) : State := { s with port := s.port ++ [r] }

/-- The bytes of packed words as WRITE_BYTES takes them, "`hi(w), lo(w)` for each word w" (R248). -/
def wordsToBytes (ws : List Word) : List Byte := ws.flatMap fun w => [hi w, lo w]

/-- The electrical level of a logical one or zero (R27). -/
def level (active : Bool) (asserted : Bool) : Bool := if asserted then active else !active

/-- The level of the chip-select pin (R27). -/
def csPin (s : State) : Bool := level Config.csActiveLevel s.cs

/-- The logical HRDY sample of a level on the HRDY pin (R27). -/
def hrdyOfPin (pin : Bool) : Bool := pin == Config.hrdyActiveLevel

/-- The named register blocks (R42). -/
inductive RegBlock where
  | system
  | memoryConv
  | sdCard
  | spi
  | dispCtrl
  | intc
  | hsUart
  | gpio
  | jpg
  | imageProc
  | i2c
  | usb
  deriving DecidableEq, Repr

/-- The base offsets (R42). -/
def RegBlock.base : RegBlock → Word
  | .system => 0x0000
  | .memoryConv => 0x0200
  | .sdCard => 0x0600
  | .spi => 0x0E00
  | .dispCtrl => 0x1000
  | .intc => 0x1400
  | .hsUart => 0x1C00
  | .gpio => 0x1E00
  | .jpg => 0x4000
  | .imageProc => 0x4600
  | .i2c => 0x4C00
  | .usb => 0x4E00

/-- The blocks from the greatest base down. -/
def regBlocksDown : List RegBlock :=
  [.usb, .i2c, .imageProc, .jpg, .gpio, .hsUart, .intc, .dispCtrl, .spi, .sdCard, .memoryConv, .system]

/-- "An address belongs to the block with the greatest base not above it only as a naming convention" (R42). -/
def regBlockOf (a : Word) : RegBlock :=
  (regBlocksDown.find? fun b => decide (b.base.toNat ≤ a.toNat)).getD .system

end Sys2Proof.Machine
end

