-- ==== Sys2Proof/Machine/Programs.lean ====
section
/-! DEFINITION. The program of each request, in one table: what the invariant of the latch and claims about a request's
program points refer to. -/

namespace Sys2Proof.Machine

/-- The program of each request's pseudocode; the preambles have none of their own. -/
def requestProgram : Instr → Option (List Act)
  | .sendCmd c => some (sendCmdProgram c)
  | .writeData ws => some (writeDataProgram ws)
  | .writeBytes bs => some (writeBytesProgram bs)
  | .readData n => some (readDataProgram n)
  | .writeReg a v => some (writeRegProgram a v)
  | .readReg a => some (readRegProgram a)
  | .waitDpyReady a => some (pollProgram a)
  | .packPixels d e p => some [.done (packResult d e p)]
  | .decodeDevinfo ws => some [.done (decodeResult ws)]
  | .queryDevinfo => some queryDevinfoProgram
  | .preambleCmd => none
  | .preambleWr => none
  | .preambleRd => none
  | .sysRun => some (sendCmdProgram 0x0001)
  | .standby => some (sendCmdProgram 0x0002)
  | .sleep => some (sendCmdProgram 0x0003)
  | .regRd => some (sendCmdProgram 0x0010)
  | .regWr => some (sendCmdProgram 0x0011)
  | .burst12 => some (sendCmdProgram 0x0012)
  | .burst13 => some (sendCmdProgram 0x0013)
  | .burst14 => some (sendCmdProgram 0x0014)
  | .burst15 => some (sendCmdProgram 0x0015)
  | .ldImg20 => some (sendCmdProgram 0x0020)
  | .ldImg21 => some (sendCmdProgram 0x0021)
  | .ldImg22 => some (sendCmdProgram 0x0022)
  | .ldImg95 => some (sendCmdProgram 0x0095)
  | .dpyArea => some (sendCmdProgram 0x0034)
  | .dpyBufArea => some (sendCmdProgram 0x0037)
  | .powerSequence => some (sendCmdProgram 0x0038)
  | .cmdVcom => some (sendCmdProgram 0x0039)
  | .fillRect => some (sendCmdProgram 0x003A)
  | .cmdTemperature => some (sendCmdProgram 0x0040)
  | .bppSettings => some (sendCmdProgram 0x0080)
  | .getDevInfo => some (sendCmdProgram 0x0302)

/-- What the ENGINE runs for an accepted request: its instruction's program, or the answer to a violation (R216). -/
def programOf (r : Request) : Option (List Act) :=
  match decodeRequest r with
  | .instr i => requestProgram i
  | .violation _ => some [.done (.fail .illegal)]
  | .badLength => none
  | .noRow => none

end Sys2Proof.Machine
end

