-- ==== Sys2Proof/Machine/TraceViews.lean ====
section
/-! DEFINITION. The derived views of the trace (R30, R45). -/

namespace Sys2Proof.Machine

/-- The bytes one event sends (R30). -/
def Event.mosi : Event → List Byte
  | .x16 o _ => [hi o, lo o]
  | .x8 o _ => [o]
  | .cs1 => []
  | .cs0 => []
  | .rdy => []

/-- The bytes one event receives (R30). -/
def Event.miso : Event → List Byte
  | .x16 _ i => [hi i, lo i]
  | .x8 _ i => [i]
  | .cs1 => []
  | .cs0 => []
  | .rdy => []

/-- `MosiBytes(T)` (R30). -/
def mosiBytes (t : List Event) : List Byte := t.flatMap Event.mosi

/-- `MisoBytes(T)` (R30). -/
def misoBytes (t : List Event) : List Byte := t.flatMap Event.miso

/-- The bits on MOSI, in wire order (R45, R103). -/
def mosiBits (t : List Event) : List Bool := (mosiBytes t).flatMap byteBits

/-- The transactions completed in a trace, `open?` being the events since the last CS1, if none has ended it. -/
def transactionsFrom : Option (List Event) → List Event → List (List Event)
  | _, [] => []
  | _, .cs1 :: t => transactionsFrom (some [.cs1]) t
  | some acc, .cs0 :: t => (acc ++ [.cs0]) :: transactionsFrom none t
  | some acc, e :: t => transactionsFrom (some (acc ++ [e])) t
  | none, _ :: t => transactionsFrom none t

/-- `Transactions(T)` (R30): the sub-lists that begin with CS1 and end with the next CS0. -/
def transactions (t : List Event) : List (List Event) := transactionsFrom none t

end Sys2Proof.Machine
end

