-- ==== Sys2Proof/Safety.lean ====
section
/-! DEFINITION. What claims about the block use: the wire grammar (R53, R61, R62, R64, R100) as a position on the bus,
the invariant of the state, the vocabulary for what the CHIP answers, and the HOST's duties (70_reset_and_hazards.md). -/

namespace Sys2Proof.Machine

/-! ### The wire grammar -/

/-- Where a trace stands in the grammar of R62. -/
inductive BusPos where
  /-- Outside every transaction. -/
  | out
  /-- After CS1. -/
  | opened
  /-- After CS1 RDY. -/
  | openedRdy
  /-- After the command preamble. -/
  | cmd
  | cmdRdy
  /-- After the opcode. -/
  | cmdDone
  /-- After the write preamble. -/
  | wr
  | wrRdy
  /-- After one data word or more. -/
  | wrWords
  | wrWordsRdy
  /-- After one raw byte or more. -/
  | wrBytes
  /-- After the read preamble or a filler word. -/
  | rd
  | rdRdy
  deriving DecidableEq, Repr

/-- Chip-select is asserted inside a transaction and only there. -/
def BusPos.inside (p : BusPos) : Bool := p != .out

/-- A ready-wait completes (R100 b: one before every word, R106). -/
def BusPos.rdy : BusPos → Option BusPos
  | .opened => some .openedRdy
  | .cmd => some .cmdRdy
  | .wr => some .wrRdy
  | .wrWords => some .wrWordsRdy
  | .rd => some .rdRdy
  | _ => none

/-- A word goes out: first one of the three preambles (R61, R64), then what its transaction type takes. -/
def BusPos.word (o : Word) : BusPos → Option BusPos
  | .openedRdy =>
    if o = 0x6000 then some .cmd else if o = 0x0000 then some .wr else if o = 0x1000 then some .rd else none
  | .cmdRdy => some .cmdDone
  | .wrRdy => some .wrWords
  | .wrWordsRdy => some .wrWords
  | .rdRdy => if o = 0x0000 then some .rd else none
  | _ => none

/-- A raw byte goes out (R106). -/
def BusPos.byte : BusPos → Option BusPos
  | .wrRdy => some .wrBytes
  | .wrBytes => some .wrBytes
  | _ => none

/-- One event. CS0 may end a transaction anywhere: a timeout and a reset cut it short (R218, R240). -/
def BusPos.next (e : Event) (p : BusPos) : Option BusPos :=
  match e with
  | .cs1 => if p = .out then some .opened else none
  | .cs0 => if p.inside then some .out else none
  | .rdy => p.rdy
  | .x16 o _ => p.word o
  | .x8 _ _ => p.byte

/-- Where a trace leads from a position; none if it breaks the grammar. -/
def scan : List Event → BusPos → Option BusPos
  | [], p => some p
  | e :: t, p => (p.next e).bind (scan t)

/-- One act of a program, on the position: a preamble only as a transaction's first word, a filler only in a read, a
word of the operands in neither place. `done` is the end of the program and leads nowhere. -/
def BusPos.act (a : Act) (p : BusPos) : Option BusPos :=
  match a with
  | .csOn => if p = .out then some .opened else none
  | .rdOn => if p = .out then some .opened else none
  | .csOff => if p.inside then some .out else none
  | .ready => p.rdy
  | .wait => p.rdy
  | .pre q => if p = .openedRdy then p.word (preambleWord q) else none
  | .x16 o => if p = .openedRdy ∨ p = .rdRdy then none else p.word o
  | .fill => if p = .rdRdy then p.word 0x0000 else none
  | .x8 _ => p.byte
  | .done _ => none

/-- Inside a read transaction whose preamble has gone out. -/
def BusPos.inRead (p : BusPos) : Bool := p == .rd || p == .rdRdy

/-- The words of the last read after one more event: its preamble starts them, its filler words add to them. -/
def BusPos.readWords (p : BusPos) (e : Event) (ws : List Word) : List Word :=
  match e with
  | .x16 o i => if p = .openedRdy ∧ o = preambleWord .rd then [i] else if p = .rdRdy then ws ++ [i] else ws
  | .x8 _ _ => ws
  | .cs1 => ws
  | .cs0 => ws
  | .rdy => ws

/-- The words of the last read of a trace that goes on from a position, `ws` being those before. -/
def lastReadFrom : List Event → BusPos → List Word → List Word
  | [], _, ws => ws
  | e :: t, p, ws => lastReadFrom t ((p.next e).getD .out) (p.readWords e ws)

/-- The words received on a trace since the last READ preamble, its own among them, in that transaction: the raw words
of the last read (R107). -/
def lastRead (t : List Event) : List Word := lastReadFrom t .out []

/-- A program that keeps the grammar from a position and ends, outside every transaction, in its one `done`. -/
def fits : List Act → BusPos → Bool
  | [], _ => false
  | [.done _], p => p == .out
  | a :: as, p => match p.act a with
    | some q => fits as q
    | none => false

/-- The trace keeps the grammar and stands inside a transaction iff chip-select is asserted. -/
def WireOk (s : State) : Prop := ∃ p, scan s.trace .out = some p ∧ s.cs = p.inside

/-- IDLE: nothing in progress and nothing kept of the last request (R22, R31, R34, R54). BUSY: a program that finishes
what the trace has begun. -/
def PhaseOk (s : State) : Prop :=
  match s.phase with
  | .idle => s.cs = false ∧ s.req = none ∧ s.todo = [] ∧ s.rx = [] ∧ s.wcount = 0
  | .busy => ∃ p, scan s.trace .out = some p ∧ fits s.todo p = true

/-! ### The request in progress -/

/-- How many words `rx` holds once these acts are behind the ENGINE, `n` before them (R31, R107). -/
def received : List Act → Nat → Nat
  | [], n => n
  | .rdOn :: acts, _ => received acts 0
  | .pre .rd :: acts, _ => received acts 1
  | .fill :: acts, n => received acts (n + 1)
  | _ :: acts, n => received acts n

/-- The acts left are `rest`, of which the first, a ready-wait, may have begun (R22's hold point). -/
def StandsAt (todo rest : List Act) : Prop := todo = rest ∨ ∃ k, todo = .wait :: k ∧ rest = .ready :: k

/-- The micro-state is a point of the latched request's program, and `rx` has as many words as the part behind it
received in the current read (R22, R23, R31). -/
def LatchOk (s : State) : Prop :=
  s.phase = .busy → ∃ r past rest, s.req = some r ∧ programOf r = some (past ++ rest) ∧ StandsAt s.todo rest ∧
    s.rx.length = received past 0

/-- `rx` is "the raw received words of the current read transaction" (R31), as the trace has them, or empty where the
bus is in no read: before a request's read has begun, and once its end has taken them. -/
def ReadOk (s : State) : Prop :=
  s.rx = lastRead s.trace ∨ s.rx = [] ∧ ∀ p, scan s.trace .out = some p → p.inRead = false

/-- `wcount` counts inside a ready-wait only (R31). -/
def CountOk (s : State) : Prop := s.wcount = 0 ∨ s.todo.head? = some .wait

/-- "Data is non-empty only when the status is OK" (R211), of every response on record; LAST_ERR is the last one's
status, or OK, as before the first and after a reset (R25, R32). -/
structure ResponsesOk (s : State) : Prop where
  data : ∀ r ∈ s.responses, r.status ≠ .ok → r.data = []
  lastErr : s.lastErr = .ok ∨ s.responses.getLast?.map Response.status = some s.lastErr

/-- The invariant of the state. -/
structure BlockInv (s : State) : Prop where
  wire : WireOk s
  phase : PhaseOk s
  latch : LatchOk s
  read : ReadOk s
  count : CountOk s
  responses : ResponsesOk s

/-- The HOST issues only well-formed requests: "The request port carries only well-formed requests" (R71). -/
def PortOk (s : State) : Prop := ∀ r ∈ s.port, r.wellFormed = true

/-- A step that gives a next state: it neither faults nor is refused. -/
def SafeStep (s : State) : Prop := ∃ t, step s = .next t

/-! ### What the CHIP answers -/

/-- The HRDY samples of ready-waits that each see some number of 0 samples and then a 1. -/
def waits (zeros : List Nat) : List Bool := zeros.flatMap fun z => List.replicate z false ++ [true]

/-- No ready-wait sees as many 0 samples as `READY_TIMEOUT` allows (R101, R218 b). -/
def Patient (limit : Option Nat) (zeros : List Nat) : Prop := ∀ k, limit = some k → ∀ z ∈ zeros, z < k

/-- `rst` is not asserted, and HRDY answers the next `n` ready-waits: with `zs` 0 samples before each wait's 1, never
as many as the timeout allows, leaving the samples `rest`. -/
structure HrdyAnswers (n : Nat) (zs : List Nat) (rest : List Bool) (s : State) : Prop where
  noReset : s.rstIn = []
  count : zs.length = n
  samples : s.hrdyIn = waits zs ++ rest
  inTime : Patient s.readyTimeout zs

/-- The j-th byte the CHIP will send: a queued one, or a free value beyond the queue. -/
def misoByteAt (s : State) (j : Nat) : Byte :=
  if j < s.misoIn.length then s.misoIn.getD j 0 else Config.misoDraw (s.misoDrawn + (j - s.misoIn.length))

/-- The word that begins with the j-th byte the CHIP will send (R45). -/
def misoWordFrom (s : State) (j : Nat) : Word := joinBytes (misoByteAt s j) (misoByteAt s (j + 1))

/-- The k-th word the CHIP will send. -/
def misoWordAt (s : State) (k : Nat) : Word := misoWordFrom s (2 * k)

/-- The CHIP's inputs after `bytes` bytes have been received and HRDY's queue is `rest`. -/
def afterWire (rest : List Bool) (bytes : Nat) (s : State) : State :=
  { s with
    hrdyIn := rest
    misoIn := s.misoIn.drop bytes
    misoDrawn := s.misoDrawn + (bytes - s.misoIn.length) }

/-- The events of `CmdTxn(c)` (R62), `i k` being the k-th word received. -/
def cmdEvents (i : Nat → Word) (c : Word) : List Event :=
  [.cs1, .rdy, .x16 0x6000 (i 0), .rdy, .x16 c (i 1), .cs0]

/-- The events of `WrTxn(ws)` (R62). -/
def wrEvents (i : Nat → Word) (ws : List Word) : List Event :=
  [.cs1, .rdy, .x16 0x0000 (i 0)]
    ++ (List.range ws.length).flatMap (fun k => [.rdy, .x16 (ws.getD k 0) (i (k + 1))]) ++ [.cs0]

/-- The events of `RdTxn(N)` (R62). -/
def rdEvents (i : Nat → Word) (n : Nat) : List Event :=
  [.cs1, .rdy, .x16 0x1000 (i 0)]
    ++ (List.range (n + 1)).flatMap (fun k => [.rdy, .x16 0x0000 (i (k + 1))]) ++ [.cs0]

/-- The events of `WrBTxn(bs)` (R62, R106), `w` being the word and `i k` the k-th byte after it received. -/
def wrBytesEvents (w : Word) (i : Nat → Byte) (bs : List Byte) : List Event :=
  [.cs1, .rdy, .x16 0x0000 w]
    ++ (if bs = [] then [] else .rdy :: (List.range bs.length).map fun k => .x8 (bs.getD k 0) (i k)) ++ [.cs0]

/-- The words READ_DATA keeps: raw words 2 to N + 1 (R107). -/
def keptWords (i : Nat → Word) (n : Nat) : List Word := (List.range n).map fun k => i (k + 2)

/-- A request over with a response: its events on the record, its status in LAST_ERR, the block IDLE with chip-select
released (R211). -/
def answered (st : Status) (data : List Word) (events : List Event) (s : State) : State :=
  { s with
    phase := .idle
    req := none
    todo := []
    rx := []
    wcount := 0
    cs := false
    lastErr := st
    trace := s.trace ++ events
    responses := s.responses ++ [⟨st, data⟩] }

/-- Several steps, stopping at a fault or a refusal. -/
def steps (k : Nat) (s : State) : Host.Outcome State Fault Refusal := Sys2Proof.core.run k s

/-! ### The HOST's duties (no rule of the block enforces them) -/

/-- A request that renders: SEND_CMD with DPY_AREA (R133). -/
def isRender (r : Request) : Bool := r.desc == (cmdRequest 0x0034).desc

/-- A request the ENGINE has taken: how it ended, none if a reset abandoned it or it is still in progress, and its bus
activity, the events it put on the trace (R53). -/
structure Taken where
  request : Request
  outcome : Option Status
  events  : List Event
  deriving DecidableEq, Repr

/-- The request that a step from `s` works on: the one an IDLE block takes up next (R210), or the latched one (R23). -/
def inProgress (s : State) : Option Request :=
  match s.phase with
  | .idle => s.port.head?
  | .busy => s.req

/-- What the step from `s` to `t` ends of the request `r` in progress, whose events are `events`: nothing if `t` is
still BUSY with it or a reset came before `r` was taken; else `r`, with its response's status or abandoned (R211,
R240 c). -/
def endedIn (r : Request) (events : List Event) (s t : State) : List Taken :=
  if t.phase = .busy then []
  else if s.responses.length < t.responses.length then [⟨r, t.responses.getLast?.map Response.status, events⟩]
  else if s.phase = .busy ∨ t.port.length < s.port.length then [⟨r, none, events⟩]
  else []

/-- The requests taken in `n` steps, in order, the one still in progress last; `sofar` are the events of the one in
progress at the start. -/
def historyFrom (sofar : List Event) : Nat → State → List Taken
  | 0, s => if s.phase = .busy then s.req.toList.map (⟨·, none, sofar⟩) else []
  | n + 1, s =>
    match step s with
    | .next t =>
      let events := sofar ++ t.trace.drop s.trace.length
      (inProgress s).toList.flatMap (endedIn · events s t) ++
        historyFrom (if t.phase = .busy then events else []) n t
    | .fault _ => []
    | .refused _ => []

/-- The requests taken in `n` steps of a run that starts outside every request. -/
def history (n : Nat) (s : State) : List Taken := historyFrom [] n s

/-- A WAIT_DPY_READY on the LUT status register that has completed: it was answered OK (R156). -/
def completedWait (lutStatus : Word) (r : Taken) : Bool :=
  r.request == waitDpyRequest lutStatus && r.outcome == some .ok

/-- R158, R249: every render command comes after a WAIT_DPY_READY on the LUT status register that has completed, which
is one answered OK, since the last render command. `waited` says whether one has. -/
def rendersOrdered (lutStatus : Word) : Bool → List Taken → Bool
  | _, [] => true
  | waited, r :: rs =>
    if isRender r.request then waited && rendersOrdered lutStatus false rs
    else rendersOrdered lutStatus (waited || completedWait lutStatus r) rs

/-- The members of each exchange come one after another: once another exchange's has come, none of the first comes
again. -/
def unbroken : List Nat → Bool
  | [] => true
  | x :: xs => !(xs.dropWhile (· == x)).contains x && unbroken xs

/-- R246: "A command and its argument and read transactions form one exchange with the chip", and no other request's bus
activity comes between them. The HOST numbers its exchanges: each request taken stands beside its exchange's number. A
request without bus activity (R108, R214) may stand anywhere. -/
def adjacent (issued : List (Nat × Taken)) : Bool :=
  unbroken ((issued.filter fun r => !r.2.events.isEmpty).map Prod.fst)

/-- R248, for the image of a rectangle: the bytes of PACK_PIXELS' output for some pixels of it, so padded rows (R173),
an even number of bytes, high byte first. -/
def preAlignedFor (x y w h : Word) (bs : List Byte) : Prop :=
  ∃ pixels geom out, packResult .d4 .little (x :: y :: w :: h :: pixels) = .pack geom out ∧ bs = wordsToBytes out

/-- R248: a WRITE_BYTES payload in the chip's word layout, for some rectangle. -/
def preAligned (bs : List Byte) : Prop := ∃ x y w h, preAlignedFor x y w h bs

end Sys2Proof.Machine
end

