-- ==== Sys2Proof/Certificates/Slice0/Obligations.lean ====
section
/-! DEFINITION. The statements for the provers, from the numbered rules of spec/. A title that says "model's choice" names
the log entry it rests on. -/

open Sys2Proof Sys2Proof.Machine

/-! ### Vocabulary -/

/-- The rows of R63 with their opcodes, in the table's order. -/
def Sys2Proof.Claims.commandRows : List (Instr × Word) :=
  [(.sysRun, 0x0001), (.standby, 0x0002), (.sleep, 0x0003), (.regRd, 0x0010), (.regWr, 0x0011),
   (.burst12, 0x0012), (.burst13, 0x0013), (.burst14, 0x0014), (.burst15, 0x0015),
   (.ldImg20, 0x0020), (.ldImg21, 0x0021), (.ldImg22, 0x0022), (.ldImg95, 0x0095),
   (.dpyArea, 0x0034), (.dpyBufArea, 0x0037), (.powerSequence, 0x0038), (.cmdVcom, 0x0039),
   (.fillRect, 0x003A), (.cmdTemperature, 0x0040), (.bppSettings, 0x0080), (.getDevInfo, 0x0302)]

/-- The instructions that are requests: every row but the three preambles. -/
def Sys2Proof.Claims.isRequest (i : Instr) : Prop := i ≠ .preambleCmd ∧ i ≠ .preambleWr ∧ i ≠ .preambleRd

/-- The requests that put something on the bus (R49). -/
def Sys2Proof.Claims.onBus (i : Instr) : Prop :=
  Sys2Proof.Claims.isRequest i ∧ i ≠ .writeData [] ∧ i ≠ .readData 0 ∧ (∀ d e p, i ≠ .packPixels d e p) ∧
    (∀ ws, i ≠ .decodeDevinfo ws)

/-- The table of R217 without E_ILLEGAL. -/
def Sys2Proof.Claims.statusesOf : Instr → List Status
  | .packPixels _ _ _ => [.ok, .unimpl, .precond]
  | .decodeDevinfo _ => [.ok, .size]
  | .queryDevinfo => [.ok, .comm, .timeout]
  | _ => [.ok, .timeout]

/-- What a request's response may carry: a status of its operation, E_ILLEGAL for an encoding violation only. -/
def Sys2Proof.Claims.mayAnswer (r : Request) (st : Status) : Prop :=
  (∃ i, decodeRequest r = .instr i ∧ st ∈ statusesOf i) ∨ (∃ v, decodeRequest r = .violation v) ∧ st = .illegal

/-- What a reset leaves in every register of the block (R32). -/
structure Sys2Proof.Claims.IsReset (t : State) : Prop where
  phase : t.phase = .idle
  req : t.req = none
  todo : t.todo = []
  cs : t.cs = false
  diValid : t.diValid = false
  lastErr : t.lastErr = .ok
  di : t.di = DiCache.zero
  packGeom : t.packGeom = 0
  rx : t.rx = []
  wcount : t.wcount = 0

/-- The events of one display-ready poll of register `a` (R156). -/
def Sys2Proof.Claims.pollEvents (i : Nat → Word) (a : Word) : List Event :=
  cmdEvents i 0x0010 ++ wrEvents (fun k => i (2 + k)) [a] ++ rdEvents (fun k => i (4 + k)) 1

/-- The padded row of R173 in plain arithmetic: start column, length, leading zero pixels. -/
def Sys2Proof.Claims.rowStart (x : Nat) : Nat := 4 * (x / 4)
def Sys2Proof.Claims.rowLength (x w : Nat) : Nat := 4 * ((x + w + 3) / 4) - 4 * (x / 4)

open Sys2Proof.Claims

/-! ### Invariants -/

/-- The state after reset satisfies the invariant (R32, the spec's decision D31). -/
def Obligations.ResetMeetsInvariant : Prop := BlockInv State.reset

/-- Every step keeps the invariant: the wire grammar, chip-select inside transactions only, an IDLE block with nothing
in progress and nothing kept of the last request, a BUSY one at a point of the latched request's program that finishes
what is on the wire, `rx` with the words that the trace has received since the last read preamble, as many as the acts
behind the ENGINE received, or empty outside a read, `wcount` counting in a ready-wait only, no data in an error response,
LAST_ERR the last response's status or OK (R62, R22, R23, R31, R34, R211, R25; the form of the micro-state is the model's
choice, log entry 10). -/
def Obligations.StepKeepsInvariant : Prop := ∀ s t, BlockInv s → step s = .next t → BlockInv t

/-- No state of the invariant whose port holds only well-formed requests faults or is refused, and the port stays so
(the model's choice of its two unreachable stops: log entry 20). -/
def Obligations.InvariantStatesStep : Prop := ∀ s, BlockInv s → PortOk s → ∃ t, step s = .next t ∧ PortOk t

/-- A step only adds to the trace, and makes at most one response, which leaves the block IDLE with its status in
LAST_ERR and the latch empty (R211, R34; what a step is, is the model's choice, log entry 6). -/
def Obligations.StepAnswersAtMostOnce : Prop :=
  ∀ s t, step s = .next t →
    (∃ events, t.trace = s.trace ++ events) ∧
    (t.responses = s.responses ∨
      ∃ r, t.responses = s.responses ++ [r] ∧ t.phase = .idle ∧ t.lastErr = r.status ∧ t.req = none)

/-- While BUSY the request port holds (R210, the spec's decision D6). -/
def Obligations.BusyHoldsPort : Prop := ∀ s t, s.phase = .busy → step s = .next t → t.port = s.port

/-- An IDLE block takes the first waiting request and no other, and holds it in the latch while BUSY; a request that
the step ends leaves the latch empty (R210, R23, R34, the spec's decision D6). -/
def Obligations.IdleTakesFirstRequest : Prop :=
  ∀ s t r rest, s.phase = .idle → s.rstIn = [] → s.port = r :: rest → step s = .next t →
    t.port = rest ∧
      ((t.phase = .busy ∧ t.req = some r ∧ t.responses = s.responses) ∨
        (t.phase = .idle ∧ t.req = none ∧ ∃ x, t.responses = s.responses ++ [x]))

/-- The configuration is fixed: no step writes READY_TIMEOUT (R241, R24 PARAM; that it stands in State is the model's
choice, log entry 1). -/
def Obligations.TimeoutParameterFixed : Prop := ∀ s t, step s = .next t → t.readyTimeout = s.readyTimeout

/-- Who writes the DeviceInfo cache and DI_VALID, and what they write (R57, R190, R194, R195). No instruction but
QUERY_DEVINFO, and no step that works on another request, writes them, a reset apart, which clears both. A step that works
on a QUERY_DEVINFO leaves both, and answers nothing or E_TIMEOUT; or its read is over, `ws` being the last 20 words the
trace has received since that read's preamble, the first two discarded: a zero width or height there answers E_COMM and
clears DI_VALID alone, and otherwise the cache is filled whole from `ws`, DI_VALID is set and the answer is OK (the spec's
decisions D28 and D29). -/
def Obligations.CacheWrittenOnlyByQueryOrReset : Prop :=
  (∀ i s t, i ≠ .queryDevinfo → s.rstIn = [] → exec i s = .next t → t.di = s.di ∧ t.diValid = s.diValid) ∧
  ∀ s t, BlockInv s → step s = .next t →
    (t.di = s.di ∧ t.diValid = s.diValid ∧
      ∀ r x, inProgress s = some r → decodeRequest r = .instr .queryDevinfo → t.responses = s.responses ++ [x] →
        x.status = .timeout) ∨
    (true ∈ s.rstIn ∧ t.di = DiCache.zero ∧ t.diValid = false ∧ t.responses = s.responses) ∨
    ∃ r ws, inProgress s = some r ∧ decodeRequest r = .instr .queryDevinfo ∧
      ws = (lastRead t.trace).drop 2 ∧ ws.length = 20 ∧
      (((ws.getD 0 0 = 0 ∨ ws.getD 1 0 = 0) ∧ t.di = s.di ∧ t.diValid = false ∧
          t.responses = s.responses ++ [⟨.comm, []⟩]) ∨
        (ws.getD 0 0 ≠ 0 ∧ ws.getD 1 0 ≠ 0 ∧ t.di = cacheOf (devInfo ws) ∧ t.diValid = true ∧
          t.responses = s.responses ++ [⟨.ok, devInfoData (devInfo ws)⟩]))

/-- Only PACK_PIXELS writes PACK_GEOM (R28, the spec's decision D24): no other instruction, and no step, the reset
apart, but one that answers OK to a 4 bpp little-endian PACK_PIXELS, with the geometry of its rectangle. -/
def Obligations.OnlyPackWritesGeometry : Prop :=
  (∀ i s t, s.rstIn = [] → (∀ d e p, i ≠ .packPixels d e p) → exec i s = .next t → t.packGeom = s.packGeom) ∧
  ∀ s t, BlockInv s → step s = .next t →
    t.packGeom = s.packGeom ∨
    (true ∈ s.rstIn ∧ t.packGeom = 0 ∧ t.responses = s.responses) ∨
    ∃ r x y w h pixels out, inProgress s = some r ∧
      decodeRequest r = .instr (.packPixels .d4 .little (x :: y :: w :: h :: pixels)) ∧
      t.packGeom = packGeomOf x.toNat w.toNat ∧ t.responses = s.responses ++ [⟨.ok, out⟩]

/-! ### Fetching and decoding -/

/-- A step runs the decoded instruction: the request taken up, or the preamble's acts off the micro-state, is all the
step adds (model's form: log entry 6). -/
def Obligations.StepRunsDecodedInstruction : Prop :=
  ∀ s f i, s.rstIn = [] → fetch s = some f → decode f = .instr i → step s = exec i (takeUp f s)

/-- An encoding violation is answered with E_ILLEGAL and changes nothing else (R216, the spec's decision D16). -/
def Obligations.ViolationAnswersIllegal : Prop :=
  ∀ s r rest v, s.rstIn = [] → s.phase = .idle → s.cs = false → s.port = r :: rest →
    decodeRequest r = .violation v →
    step s = .next (answered .illegal [] [] { s with port := rest })

/-- The encoding violations are exactly those R75 and R73 list (the spec's decision D16). -/
def Obligations.ViolationsAreThoseListed : Prop :=
  ∀ r : Request, r.wellFormed = true →
    ((∃ v, decodeRequest r = .violation v) ↔
      (Desc.op r.desc = 0x0 ∨ 0xB ≤ (Desc.op r.desc).toNat) ∨
      Desc.rsvd r.desc ≠ 0 ∨
      (Desc.op r.desc ≠ 0x8 ∧ (Desc.bpp r.desc ≠ 0 ∨ Desc.endian r.desc ≠ 0)) ∨
      ((Desc.op r.desc).toNat ∈ [2, 3, 4, 8, 9, 10] ∧ Desc.arg16 r.desc ≠ 0) ∨
      ((Desc.op r.desc).toNat ∈ [1, 6, 7, 10] ∧ Desc.len32 r.desc ≠ 0) ∨
      (Desc.op r.desc = 0x5 ∧ Desc.len32 r.desc ≠ 1) ∨
      (Desc.op r.desc = 0x8 ∧ 5 ≤ (Desc.bpp r.desc).toNat) ∨
      (Desc.op r.desc = 0x3 ∧ ∃ w ∈ r.payload, 256 ≤ w.toNat) ∨
      (Desc.op r.desc = 0x8 ∧ ∃ w ∈ r.payload.drop 4, 256 ≤ w.toNat))

/-- A request whose payload length is not `plen` is refused at the port, before anything else (R71, the spec's
decision D3; the port is a queue, the model's choice, log entry 4). -/
def Obligations.IllFormedRequestRefused : Prop :=
  ∀ s r rest, s.rstIn = [] → s.phase = .idle → s.port = r :: rest → r.payload.length ≠ plen r.desc →
    step s = .refused .illFormedRequest

/-- Decoding an encoded well-formed instruction gives it back, for every row of the table (a listed opcode's row has the
words of SEND_CMD, the model's choice, log entry 7). -/
def Obligations.DecodeEncodeRoundTrip : Prop := ∀ i : Instr, i.wellFormed = true → decode (encode i) = .instr i

/-- Each request has one meaning: what decodes to an instruction is that instruction's encoding, and the instruction
is well-formed. -/
def Obligations.EncodeDecodeRoundTrip : Prop :=
  ∀ r i, decodeRequest r = .instr i → encode i = .request r ∧ i.wellFormed = true

/-- The wire words of the table and their rows determine each other (R61, R63). -/
def Obligations.WireWordsDetermineRows : Prop := ∀ i w, decodeWire w = some i ↔ wireWord i = some w

/-- Words written out from R61, R63 and R80's formula decode to the rows they stand for. -/
def Obligations.SampleWordsDecode : Prop :=
  decodeTableWord 64 0x00000000FFFF0001 = some (.sendCmd 0xFFFF) ∧
  decodeTableWord 64 0x0000000012240006 = some (.readReg 0x1224) ∧
  decodeTableWord 64 0x0000001400000004 = some (.readData 20) ∧
  decodeTableWord 64 0x0000000000000038 = some (.packPixels .d4 .little []) ∧
  decodeTableWord 64 0x000000000000000A = some .queryDevinfo ∧
  decodeTableWord 16 0x6000 = some .preambleCmd ∧
  decodeTableWord 16 0x0095 = some .ldImg95

/-! ### The framer -/

/-- SEND_CMD, any opcode: preamble and opcode in one transaction, chip-select before the first ready-wait, response OK;
nothing else changes (R104, the spec's decision D7). -/
def Obligations.SendCmdAnswers : Prop :=
  ∀ c s zs rest, HrdyAnswers 2 zs rest s →
    exec (.sendCmd c) s = .next (answered .ok [] (cmdEvents (misoWordAt s) c) (afterWire rest 4 s))

/-- Each of the twenty-one command opcodes is framed as SEND_CMD with its own opcode (R120 to R140, R142; that
it is a row of its own is the model's choice, log entry 7). -/
def Obligations.CommandRowsAnswer : Prop :=
  ∀ row ∈ commandRows, ∀ s zs rest, HrdyAnswers 2 zs rest s →
    exec row.1 s = .next (answered .ok [] (cmdEvents (misoWordAt s) row.2) (afterWire rest 4 s))

/-- WRITE_DATA, one word or more: preamble and words in one transaction, a ready-wait before each, response OK;
nothing else changes (R105). -/
def Obligations.WriteDataAnswers : Prop :=
  ∀ ws s zs rest, ws ≠ [] → HrdyAnswers (ws.length + 1) zs rest s →
    exec (.writeData ws) s =
      .next (answered .ok [] (wrEvents (misoWordAt s) ws) (afterWire rest (2 * (ws.length + 1)) s))

/-- WRITE_DATA of no words and READ_DATA of none make no event and leave chip-select as it is, and still respond OK
(R108). -/
def Obligations.ZeroLengthAnswers : Prop :=
  ∀ s, s.rstIn = [] → s.cs = false →
    exec (.writeData []) s = .next (answered .ok [] [] s) ∧ exec (.readData 0) s = .next (answered .ok [] [] s)

/-- WRITE_BYTES of one byte or more: preamble, one ready-wait, then the bytes with no wait between them, even or odd
in number (R106, the spec's decisions D13 and D14). -/
def Obligations.WriteBytesAnswers : Prop :=
  ∀ bs s zs rest, bs ≠ [] → HrdyAnswers 2 zs rest s →
    exec (.writeBytes bs) s =
      .next (answered .ok [] (wrBytesEvents (misoWordAt s 0) (fun k => misoByteAt s (2 + k)) bs)
        (afterWire rest (2 + bs.length) s))

/-- WRITE_BYTES of no bytes still sends its preamble (R106, the spec's decision D12). -/
def Obligations.WriteBytesEmptyAnswers : Prop :=
  ∀ s zs rest, HrdyAnswers 1 zs rest s →
    exec (.writeBytes []) s =
      .next (answered .ok [] [.cs1, .rdy, .x16 0x0000 (misoWordAt s 0), .cs0] (afterWire rest 2 s))

/-- READ_DATA of N words, N > 0: N + 2 raw words, of which the first two are discarded (R107). -/
def Obligations.ReadDataAnswers : Prop :=
  ∀ n s zs rest, 0 < n → HrdyAnswers (n + 2) zs rest s →
    exec (.readData n) s =
      .next (answered .ok (keptWords (misoWordAt s) n) (rdEvents (misoWordAt s) n) (afterWire rest (2 * (n + 2)) s))

/-- A preamble opens its transaction: chip-select, one ready-wait, the preamble word, of which a read keeps the received
word as raw word 0; the ENGINE's program is what it was (R61, R107; model's form: log entry 8). -/
def Obligations.PreamblesOpenTransactions : Prop :=
  ∀ p s zs rest, HrdyAnswers 1 zs rest s →
    exec (preambleInstr p) s =
      .next { afterWire rest 2 s with
        cs := true
        rx := if p = .rd then [misoWordAt s 0] else s.rx
        wcount := 0
        trace := s.trace ++ [.cs1, .rdy, .x16 (preambleWord p) (misoWordAt s 0)] }

/-- The bytes on MOSI of each transaction: the preamble, then the payload high byte first, verbatim (R45, R61, R62). -/
def Obligations.TransactionsSendTheirBytes : Prop :=
  (∀ i c, mosiBytes (cmdEvents i c) = [0x60, 0x00, hi c, lo c]) ∧
  (∀ i ws, mosiBytes (wrEvents i ws) = [0x00, 0x00] ++ ws.flatMap fun w => [hi w, lo w]) ∧
  (∀ w i bs, mosiBytes (wrBytesEvents w i bs) = [0x00, 0x00] ++ bs) ∧
  (∀ i n, mosiBytes (rdEvents i n) = [0x10, 0x00] ++ List.replicate (2 * (n + 1)) 0x00)

/-- What the CHIP sends during SEND_CMD, WRITE_DATA, WRITE_BYTES and WRITE_REG reaches the trace and nothing else
(R109): with other MISO bytes the same request leads to the same state but for the trace and the MISO queue, and to the
same bytes on MOSI (the spec's decision D11; the queue is the model's, log entry 2). -/
def Obligations.WriteReceivesAreDiscarded : Prop :=
  ∀ i s m d, ((∃ c, i = .sendCmd c) ∨ (∃ ws, i = .writeData ws) ∨ (∃ bs, i = .writeBytes bs) ∨
      (∃ a v, i = .writeReg a v) ∨ ∃ row ∈ commandRows, i = row.1) →
    ∃ t t', exec i s = .next t ∧ exec i { s with misoIn := m, misoDrawn := d } = .next t' ∧
      t' = { t with trace := t'.trace, misoIn := t'.misoIn, misoDrawn := t'.misoDrawn } ∧
      mosiBytes t'.trace = mosiBytes t.trace

/-! ### The register engine -/

/-- WRITE_REG: the command, then address and value in one write transaction (R150). -/
def Obligations.WriteRegAnswers : Prop :=
  ∀ a v s zs rest, HrdyAnswers 5 zs rest s →
    exec (.writeReg a v) s =
      .next (answered .ok [] (cmdEvents (misoWordAt s) 0x0011 ++ wrEvents (fun k => misoWordAt s (2 + k)) [a, v])
        (afterWire rest 10 s))

/-- READ_REG: the command, the address, and the third raw word of the read as the value (R152). -/
def Obligations.ReadRegAnswers : Prop :=
  ∀ a s zs rest, HrdyAnswers 7 zs rest s →
    exec (.readReg a) s =
      .next (answered .ok [misoWordAt s 6]
        (cmdEvents (misoWordAt s) 0x0010 ++ wrEvents (fun k => misoWordAt s (2 + k)) [a]
          ++ rdEvents (fun k => misoWordAt s (4 + k)) 1)
        (afterWire rest 14 s))

/-- WAIT_DPY_READY responds OK at the first poll that reads zero, with exactly the polls up to it on the wire: at its
first poll within its own step, and after `k` polls that read anything else at the next one (R156, R200). (A turn of the
loop after the first is two steps of the model, log entry 6.) -/
def Obligations.WaitDpyReadyAnswers : Prop :=
  (∀ a s zs rest, HrdyAnswers 7 zs rest s → misoWordAt s 6 = 0 →
    exec (.waitDpyReady a) s =
      .next (answered .ok [] (pollEvents (misoWordAt s) a) (afterWire rest 14 s))) ∧
  ∀ k a s zs rest, HrdyAnswers (7 * (k + 1)) zs rest s →
    (∀ j, j < k → misoWordAt s (7 * j + 6) ≠ 0) → misoWordAt s (7 * k + 6) = 0 →
    ∃ t, exec (.waitDpyReady a) s = .next t ∧
      steps (2 * k) t = .next (answered .ok []
        ((List.range (k + 1)).flatMap fun j => pollEvents (fun n => misoWordAt s (7 * j + n)) a)
        (afterWire rest (14 * (k + 1)) s))

/-- A first poll that reads anything else makes no response: the ENGINE is BUSY at the head of its loop, chip-select
released, nothing kept of the poll, every status register but STATUS.BUSY as it was (R156, R31, R218 a). -/
def Obligations.WaitDpyReadyPollsAgain : Prop :=
  ∀ a s zs rest, HrdyAnswers 7 zs rest s → misoWordAt s 6 ≠ 0 →
    exec (.waitDpyReady a) s =
      .next { afterWire rest 14 s with
        phase := .busy
        cs := false
        todo := pollProgram a
        rx := []
        wcount := 0
        trace := s.trace ++ pollEvents (misoWordAt s) a }

/-- The display-ready hang (R157): however many polls read non-zero, WAIT_DPY_READY has not responded after that many,
each of them on the trace as three transactions, and the ENGINE is at its loop's head again. (A turn of the loop after
the first is two steps of the model, log entry 6.) -/
def Obligations.PollsThatNeverReadZeroNeverRespond : Prop :=
  ∀ k a s zs rest, HrdyAnswers (7 * (k + 1)) zs rest s → (∀ j, j ≤ k → misoWordAt s (7 * j + 6) ≠ 0) →
    ∃ t u, exec (.waitDpyReady a) s = .next t ∧ steps (2 * k) t = .next u ∧
      u.phase = .busy ∧ u.cs = false ∧ u.todo = pollProgram a ∧ u.responses = s.responses ∧
      (transactions u.trace).length = (transactions s.trace).length + 3 * (k + 1)

/-! ### The packer -/

/-- PACK_PIXELS of a 4 bpp little-endian rectangle: every nibble of the output is the pixel at its column of the padded
row, or a padding zero; the number of words, and PACK_GEOM (R170, R172, R173, R28; PACK_GEOM is the spec's decision
D24). -/
def Obligations.PackPixelsAnswers : Prop :=
  ∀ (x y w h : Word) (ps : List Word) (s : State), s.rstIn = [] → s.cs = false →
    0 < w.toNat → 0 < h.toNat → ps.length = w.toNat * h.toNat → (∀ p ∈ ps, p.toNat ≤ 15) →
    ∃ out : List Word,
      exec (.packPixels .d4 .little (x :: y :: w :: h :: ps)) s =
        .next (answered .ok out [] { s with
          packGeom := BitVec.ofNat 32 (65536 * (rowLength x.toNat w.toNat / 4) + rowStart x.toNat) }) ∧
      out.length = h.toNat * (rowLength x.toNat w.toNat / 4) ∧
      ∀ r c, r < h.toNat → c < rowLength x.toNat w.toNat →
        (out.getD (r * (rowLength x.toNat w.toNat / 4) + c / 4) 0).extractLsb' (4 * (c % 4)) 4 =
          if x.toNat % 4 ≤ c ∧ c < x.toNat % 4 + w.toNat
          then (ps.getD (r * w.toNat + (c - x.toNat % 4)) 0).setWidth 4 else 0

/-- E_UNIMPL answers exactly the pairings of depth and endianness other than (4, little), whatever the payload (R171;
that it comes before E_PRECOND is R215, the spec's decision D26). The decoder's checks come first: a pixel above 255 is an
encoding violation, which exec never sees (log entry 18). -/
def Obligations.UnsupportedPackingUnimplemented : Prop :=
  ∀ d e p s, s.rstIn = [] → s.cs = false →
    (exec (.packPixels d e p) s = .next (answered .unimpl [] [] s) ↔ ¬ (d = .d4 ∧ e = .little))

/-- A 4 bpp little-endian payload without a whole rectangle, with an empty one, with the wrong number of pixels or with
a pixel above 15 answers E_PRECOND, and changes nothing else (R174, the spec's decisions D21 to D23). -/
def Obligations.PackPreconditionsChecked : Prop :=
  ∀ p s, s.rstIn = [] → s.cs = false →
    (p.length < 4 ∨ (p.getD 2 0).toNat = 0 ∨ (p.getD 3 0).toNat = 0 ∨
      p.length - 4 ≠ (p.getD 2 0).toNat * (p.getD 3 0).toNat ∨ ∃ v ∈ p.drop 4, 15 < v.toNat) →
    exec (.packPixels .d4 .little p) s = .next (answered .precond [] [] s)

/-- The output's length (R178): the padded rows' words, which is w·h/4 words for x and w at multiples of 4 and
h·(lead + trail)/4 more otherwise (an inference the spec marks as its own). -/
def Obligations.PackedLength : Prop :=
  ∀ (x y w h : Word) (ps : List Word) (s : State), s.rstIn = [] → s.cs = false →
    0 < w.toNat → 0 < h.toNat → ps.length = w.toNat * h.toNat → (∀ p ∈ ps, p.toNat ≤ 15) →
    ∃ t out, exec (.packPixels .d4 .little (x :: y :: w :: h :: ps)) s = .next t ∧
      t.responses = s.responses ++ [⟨.ok, out⟩] ∧
      out.length = h.toNat * (rowLength x.toNat w.toNat / 4) ∧
      4 * out.length =
        w.toNat * h.toNat + h.toNat * (x.toNat % 4 + (4 - (x.toNat + w.toNat) % 4) % 4)

/-- The four slots of a packed word (R172): the OR of the shifted pixels is their sum, and each slot reads as its
pixel. -/
def Obligations.PackedWordSlots : Prop :=
  ∀ p0 p1 p2 p3 : BitVec 4,
    (pack4 p0 p1 p2 p3).toNat = p0.toNat + 16 * p1.toNat + 256 * p2.toNat + 4096 * p3.toNat ∧
    (pack4 p0 p1 p2 p3).extractLsb' 0 4 = p0 ∧ (pack4 p0 p1 p2 p3).extractLsb' 4 4 = p1 ∧
    (pack4 p0 p1 p2 p3).extractLsb' 8 4 = p2 ∧ (pack4 p0 p1 p2 p3).extractLsb' 12 4 = p3

/-- PACK_GEOM's fields after a pack of 16-bit operands: X0 in the low half, WPR, at most 32768, in the high (R28). -/
def Obligations.GeometryFields : Prop :=
  ∀ (x w : Word) (s : State), s.packGeom = packGeomOf x.toNat w.toNat →
    (geomX0 s).toNat = rowStart x.toNat ∧ (geomWpr s).toNat = rowLength x.toNat w.toNat / 4 ∧
      (geomWpr s).toNat ≤ 32768

/-! ### The status decoder -/

/-- DECODE_DEVINFO of 20 words answers their decoding; the cache is not written and nothing is on the bus (R190). -/
def Obligations.DecodeDevinfoAnswers : Prop :=
  ∀ ws s, s.rstIn = [] → s.cs = false → ws.length = 20 →
    exec (.decodeDevinfo ws) s = .next (answered .ok (devInfoData (devInfo ws)) [] s)

/-- Any other number of words answers E_SIZE, with no data (R193). -/
def Obligations.DecodeSizeError : Prop :=
  ∀ ws s, s.rstIn = [] → s.cs = false → ws.length ≠ 20 →
    exec (.decodeDevinfo ws) s = .next (answered .size [] [] s)

/-- The device-info response entries (R191, R192, R201), entry by entry. -/
def Obligations.DeviceInfoLayout : Prop :=
  ∀ ws : List Word, ws.length = 20 →
    (devInfo ws).width = ws.getD 0 0 ∧ (devInfo ws).height = ws.getD 1 0 ∧
    (devInfo ws).fbAddr.toNat = (ws.getD 2 0).toNat + 65536 * (ws.getD 3 0).toNat ∧
    (devInfoData (devInfo ws)).length = 36 ∧
    (∀ k, k < 4 → (devInfoData (devInfo ws)).getD k 0 = ws.getD k 0) ∧
    ∀ k, k < 16 →
      (devInfoData (devInfo ws)).getD (4 + 2 * k) 0 = (hi (ws.getD (4 + k) 0)).setWidth 16 ∧
      (devInfoData (devInfo ws)).getD (4 + 2 * k + 1) 0 = (lo (ws.getD (4 + k) 0)).setWidth 16

/-- QUERY_DEVINFO that reads a non-zero width and height: the command, a read of 20 words, the whole cache replaced,
DI_VALID set, and the decoding as response (R194, the spec's decision D28). -/
def Obligations.QueryDevinfoAnswers : Prop :=
  ∀ s zs rest, HrdyAnswers 24 zs rest s →
    misoWordAt s 4 ≠ 0 → misoWordAt s 5 ≠ 0 →
    exec .queryDevinfo s =
      .next (answered .ok (devInfoData (devInfo (keptWords (fun k => misoWordAt s (2 + k)) 20)))
        (cmdEvents (misoWordAt s) 0x0302 ++ rdEvents (fun k => misoWordAt s (2 + k)) 20)
        { afterWire rest 48 s with
          di := cacheOf (devInfo (keptWords (fun k => misoWordAt s (2 + k)) 20))
          diValid := true })

/-- A zero width or height answers E_COMM after the whole traffic of the query: the cache fields are not written, and
DI_VALID is cleared (R195, the spec's decision D29). -/
def Obligations.QueryCommunicationFailure : Prop :=
  ∀ s zs rest, HrdyAnswers 24 zs rest s →
    (misoWordAt s 4 = 0 ∨ misoWordAt s 5 = 0) →
    exec .queryDevinfo s =
      .next (answered .comm []
        (cmdEvents (misoWordAt s) 0x0302 ++ rdEvents (fun k => misoWordAt s (2 + k)) 20)
        { afterWire rest 48 s with diValid := false })

/-- The cache holds what was decoded (R26): dimensions, address, and byte `n` of each string at its place in DI_FW and
DI_LUT. -/
def Obligations.CacheHoldsDecodedInfo : Prop :=
  ∀ ws : List Word, ws.length = 20 →
    (cacheOf (devInfo ws)).width = ws.getD 0 0 ∧ (cacheOf (devInfo ws)).height = ws.getD 1 0 ∧
    (cacheOf (devInfo ws)).fbAddr = (devInfo ws).fbAddr ∧
    ∀ n, n < 16 →
      (cacheOf (devInfo ws)).fwByte n = (devInfo ws).fw.getD n 0 ∧
      (cacheOf (devInfo ws)).lutByte n = (devInfo ws).lut.getD n 0

/-- Two queries whose read words 2 to 21 agree give the same response and the same DI_VALID, and the same cache
contents, whatever was in the cache before a success (R196, an inference the spec marks as its own; a failed query keeps
what was there, R195). -/
def Obligations.QueryIsIdempotent : Prop :=
  ∀ s s' zs zs' rest rest', HrdyAnswers 24 zs rest s → HrdyAnswers 24 zs' rest' s' →
    (∀ k, 4 ≤ k → k < 24 → misoWordAt s k = misoWordAt s' k) →
    ∃ t t' r, exec .queryDevinfo s = .next t ∧ exec .queryDevinfo s' = .next t' ∧
      t.responses = s.responses ++ [r] ∧ t'.responses = s'.responses ++ [r] ∧ t.diValid = t'.diValid ∧
      (s.di = s'.di ∨ misoWordAt s 4 ≠ 0 ∧ misoWordAt s 5 ≠ 0 → t.di = t'.di)

/-- Containment (R197, the spec's decision D30): false while DI_VALID is 0, boundary-inclusive otherwise. -/
def Obligations.ContainmentPredicate : Prop :=
  ∀ s r, contained s r = true ↔
    s.diValid = true ∧ r.x + r.width ≤ (s.di.dims.extractLsb' 0 16).toNat ∧
      r.y + r.height ≤ (s.di.dims.extractLsb' 16 16).toNat

/-- VCOM (R198, the spec's decision D32): the encoder's range, its errors, the round trip, and the decoding of 0. -/
def Obligations.VcomRoundTrip : Prop :=
  vcomDecode 0 = 0 ∧ ∀ mV : Int,
    ((-65535 ≤ mV ∧ mV ≤ -1) → ∃ w, vcomEncode mV = .ok w ∧ vcomDecode w = mV ∧ (w.toNat : Int) = -mV) ∧
    ((0 ≤ mV ∨ mV < -65535) → vcomEncode mV = .error .precond)

/-- `TempDecode` (R199) under the open TEMP_ORDER: a pair of words in its own order under MEASURED_FIRST, swapped
otherwise. -/
def Obligations.TemperaturePair : Prop :=
  ∀ t0 t1 : Word, tempDecodeOpen t0 t1 = if Config.tempOrder = .measuredFirst then (t0, t1) else (t1, t0)

/-! ### Hangs, timeouts, reset -/

/-- With no timeout and only 0 samples of HRDY, every request on the bus holds at its first word: chip-select asserted,
BUSY, no response, nothing on the wire but CS1 (R101, R218 a). -/
def Obligations.NoHrdyHoldsAtFirstWord : Prop :=
  ∀ i s, onBus i → s.rstIn = [] → s.readyTimeout = none → (∀ b ∈ s.hrdyIn, b = false) →
    ∃ t, exec i s = .next t ∧ t.phase = .busy ∧ t.cs = true ∧ t.trace = s.trace ++ [.cs1] ∧
      t.todo.head? = some .wait ∧ t.responses = s.responses ∧ t.lastErr = s.lastErr ∧ t.di = s.di ∧
      t.diValid = s.diValid ∧ t.packGeom = s.packGeom

/-- A held ready-wait without a timeout has no way on but a 1 sample: whatever 0 samples come, fresh draws included, a
step leaves the ENGINE where it is, and only the CHIP's inputs are used up (R101, R218 a; the draws are the model's
choice, log entry 2). -/
def Obligations.HoldHasNoExit : Prop :=
  ∀ s k, s.phase = .busy → s.todo = .wait :: k → s.rstIn = [] → s.readyTimeout = none →
    (∀ b ∈ (supplyHrdy s).hrdyIn, b = false) →
    ∃ t, step s = .next t ∧ t = { s with hrdyIn := t.hrdyIn, hrdyDrawn := t.hrdyDrawn }

/-- How the samples arrive does not matter (log entry 6): a request that holds for want of samples, and then is given
more, ends as if it had had them all from the start. -/
def Obligations.HeldRequestGoesOnWhereItStood : Prop :=
  ∀ i s t more, isRequest i → s.rstIn = [] → more ≠ [] → exec i s = .next t → t.phase = .busy →
    t.todo.head? = some .wait →
    exec i { s with hrdyIn := s.hrdyIn ++ more } = step { t with hrdyIn := more }

/-- With `READY_TIMEOUT = k`, the k-th consecutive 0 sample of one ready-wait raises E_TIMEOUT: chip-select released,
no data, the exchanges made stay on the trace, and cache, DI_VALID and PACK_GEOM stay (R218 b, R195, the spec's
decision D15). -/
def Obligations.TimeoutEndsTheRequest : Prop :=
  ∀ s acts k z rest, s.phase = .busy → s.todo = .wait :: acts → s.cs = true → s.rstIn = [] →
    s.readyTimeout = some k → s.wcount + z = k → 0 < z → s.hrdyIn = List.replicate z false ++ rest →
    step s = .next (answered .timeout [] [.cs0] { s with hrdyIn := rest })

/-- A timeout counts the 0 samples of one ready-wait only: each wait starts its count at 0 (R101, R222, the spec's
decision D15). -/
def Obligations.EachWaitCountsAnew : Prop :=
  ∀ s acts k rest, s.phase = .busy → s.todo = .ready :: acts → s.cs = true → s.rstIn = [] →
    s.readyTimeout = some k → 0 < k → s.hrdyIn = List.replicate k false ++ rest →
    step s = .next (answered .timeout [] [.cs0] { s with hrdyIn := rest })

/-- E_TIMEOUT at a request's first word: `READY_TIMEOUT = k` and k samples of 0 before it. Nothing but chip-select
was on the wire, nothing but LAST_ERR changes, and the HRDY samples behind them stay (R101, R212, R218 b). -/
def Obligations.TimeoutAtFirstWord : Prop :=
  ∀ i s k rest, onBus i → s.rstIn = [] → s.readyTimeout = some k → 0 < k →
    s.hrdyIn = List.replicate k false ++ rest →
    exec i s = .next (answered .timeout [] [.cs1, .cs0] { s with hrdyIn := rest })

/-- The statuses each operation can answer with (R217), within its own step and in any later step that resumes it or
polls again; E_ILLEGAL answers an encoding violation only, and E_TIMEOUT comes only where a timeout is configured. -/
def Obligations.StatusesPerOperation : Prop :=
  (∀ i s t, exec i s = .next t →
    t.responses = s.responses ∨
    ∃ r, t.responses = s.responses ++ [r] ∧ r.status ∈ statusesOf i ∧
      (r.status = .timeout → s.readyTimeout ≠ none)) ∧
  ∀ s t, BlockInv s → step s = .next t →
    t.responses = s.responses ∨
    ∃ q r, inProgress s = some q ∧ t.responses = s.responses ++ [r] ∧ mayAnswer q r.status ∧
      (r.status = .timeout → s.readyTimeout ≠ none)

/-- Reset (R240, R32, the spec's decision D31): from any state, whatever it was doing; chip-select is released with its
event, no response is made, and the waiting requests and the configuration stay (that the records outlive it is the
model's choice, log entry 9). -/
def Obligations.ResetFromAnyState : Prop :=
  ∀ s rst, s.rstIn = true :: rst →
    ∃ t, step s = .next t ∧ IsReset t ∧ panelRect t = none ∧
      t.trace = s.trace ++ (if s.cs = true then [.cs0] else []) ∧
      t.responses = s.responses ∧ t.port = s.port ∧ t.readyTimeout = s.readyTimeout ∧ t.rstIn = rst

/-- A reset at any program point of a request abandons it (R240 a to c; where the samples of `rst` fall is the model's
choice, log entry 3). First: `u` is the state that `n` acts of the request's program lead to with no reset; where the
(n+1)-th sample is asserted, the request ends there with every register as reset leaves it, no response, nothing more on
the wire than `u` has but the release of chip-select. Second, of every step, one that resumes a held request or begins a
further poll among them: the first asserted sample is taken and resets the block with no response, or the step ends
before it and is the step with no reset. -/
def Obligations.ResetAbandonsRequest : Prop :=
  (∀ i s program n rst u, requestProgram i = some program → n < program.length →
    s.rstIn = List.replicate n false ++ true :: rst →
    u = run (program.take n) (program.drop n) (begin { s with rstIn := [] }) → u.todo = program.drop n →
    ∃ t, exec i s = .next t ∧ IsReset t ∧ t.trace = u.trace ++ (if u.cs = true then [.cs0] else []) ∧
      t.responses = s.responses ∧ t.port = s.port ∧ t.readyTimeout = s.readyTimeout ∧ t.rstIn = rst) ∧
  ∀ s t n rst, s.rstIn = List.replicate n false ++ true :: rst → step s = .next t →
    (IsReset t ∧ t.responses = s.responses ∧ t.readyTimeout = s.readyTimeout ∧ t.rstIn = rst ∧
      ∃ events, t.trace = s.trace ++ events) ∨
    ∃ m, t.rstIn = List.replicate m false ++ true :: rst ∧
      step { s with rstIn := [] } = .next { t with rstIn := [] }

/-! ### The CSR port -/

/-- The CSR map (R24, the spec's decision D5): every number, STATUS and PARAM bit by bit, nothing above 12; a write is
ignored. The HRDY bit is an argument of the read, the model's choice (log entry 15). -/
def Obligations.CsrMap : Prop :=
  ∀ (s : State) (hrdy : Bool),
    (∀ b, b < 32 → (readCsr 0 hrdy s).getLsbD b =
      match b with
      | 0 => decide (s.phase = .busy)
      | 1 => s.diValid
      | 2 => (statusCode s.lastErr).getLsbD 0
      | 3 => (statusCode s.lastErr).getLsbD 1
      | 4 => (statusCode s.lastErr).getLsbD 2
      | 5 => s.cs
      | 6 => hrdy
      | _ => false) ∧
    readCsr 1 hrdy s = s.di.dims ∧ readCsr 2 hrdy s = s.di.fbAddr ∧
    readCsr 3 hrdy s = s.di.fw0 ∧ readCsr 4 hrdy s = s.di.fw1 ∧ readCsr 5 hrdy s = s.di.fw2 ∧
    readCsr 6 hrdy s = s.di.fw3 ∧ readCsr 7 hrdy s = s.di.lut0 ∧ readCsr 8 hrdy s = s.di.lut1 ∧
    readCsr 9 hrdy s = s.di.lut2 ∧ readCsr 10 hrdy s = s.di.lut3 ∧ readCsr 11 hrdy s = s.packGeom ∧
    (readCsr 12 hrdy s = if s.readyTimeout = none then 0 else 1) ∧
    (∀ n, 12 < n → readCsr n hrdy s = 0) ∧ ∀ n v, writeCsr n v s = s

/-- The STATUS word after reset is 0 but for the live HRDY bit (R24, R32). -/
def Obligations.StatusAfterReset : Prop :=
  ∀ hrdy, readCsr 0 hrdy State.reset = if hrdy = true then 0x40 else 0

/-- The pseudo-instructions expand to the requests R81 gives, each of which decodes to its instruction. -/
def Obligations.PseudoInstructionsDecode : Prop :=
  ∀ a32 : Word32,
    (Pseudo.run.expand.map decodeRequest = [.instr .sysRun]) ∧
    (Pseudo.standby.expand.map decodeRequest = [.instr .standby]) ∧
    (Pseudo.sleep.expand.map decodeRequest = [.instr .sleep]) ∧
    (Pseudo.waitLut.expand.map decodeRequest = [.instr (.waitDpyReady Config.lutStatusAddr)]) ∧
    (Pseudo.packedOn.expand.map decodeRequest = [.instr (.writeReg Config.packedModeAddr Config.packedModeValue)]) ∧
    ((Pseudo.setFb a32).expand.map decodeRequest =
      [.instr (.writeReg Config.fbBaseHiAddr (a32.extractLsb' 16 16)),
       .instr (.writeReg Config.fbBaseLoAddr (a32.extractLsb' 0 16))])
end

