-- ==== Sys2Proof/Laws/Decode.lean ====
section
/-! SUPPORT. The small lemmas of the two encodings: the fields of a descriptor that R80's formula makes, the halves of a
word, and what the request decoder does with a request of such a descriptor. -/

namespace Sys2Proof

/-! ### The fields of R80's descriptor (R70) -/

section
variable (op : BitVec 4) (bpp : BitVec 3) (e : BitVec 1) (arg : Word) (len : Word32)

/-- The descriptor with the width of its concatenation written out. -/
theorem mkDesc_eq : mkDesc op bpp e arg len =
    (len ++ arg ++ (0#8) ++ e ++ bpp ++ op : BitVec (32 + 16 + 8 + 1 + 3 + 4)) := rfl

@[simp] theorem mkDesc_op : Desc.op (mkDesc op bpp e arg len) = op := by
  rw [mkDesc_eq]
  refine BitVec.eq_of_getElem_eq fun i hi => ?_
  rw [Desc.op, BitVec.getElem_extractLsb']
  simp only [BitVec.getLsbD_append]
  rw [if_pos (by omega), BitVec.getLsbD_eq_getElem (by omega)]
  congr 1
  omega

@[simp] theorem mkDesc_bpp : Desc.bpp (mkDesc op bpp e arg len) = bpp := by
  rw [mkDesc_eq]
  refine BitVec.eq_of_getElem_eq fun i hi => ?_
  rw [Desc.bpp, BitVec.getElem_extractLsb']
  simp only [BitVec.getLsbD_append]
  (repeat rw [if_neg (by omega)])
  rw [if_pos (by omega), BitVec.getLsbD_eq_getElem (by omega)]
  congr 1
  omega

@[simp] theorem mkDesc_endian : Desc.endian (mkDesc op bpp e arg len) = e := by
  rw [mkDesc_eq]
  refine BitVec.eq_of_getElem_eq fun i hi => ?_
  rw [Desc.endian, BitVec.getElem_extractLsb']
  simp only [BitVec.getLsbD_append]
  (repeat rw [if_neg (by omega)])
  rw [if_pos (by omega), BitVec.getLsbD_eq_getElem (by omega)]
  congr 1
  omega

@[simp] theorem mkDesc_rsvd : Desc.rsvd (mkDesc op bpp e arg len) = 0 := by
  rw [mkDesc_eq]
  refine BitVec.eq_of_getElem_eq fun i hi => ?_
  rw [Desc.rsvd, BitVec.getElem_extractLsb']
  simp only [BitVec.getLsbD_append]
  (repeat rw [if_neg (by omega)])
  rw [if_pos (by omega), BitVec.getLsbD_eq_getElem (by omega)]
  congr 1
  omega

@[simp] theorem mkDesc_arg16 : Desc.arg16 (mkDesc op bpp e arg len) = arg := by
  rw [mkDesc_eq]
  refine BitVec.eq_of_getElem_eq fun i hi => ?_
  rw [Desc.arg16, BitVec.getElem_extractLsb']
  simp only [BitVec.getLsbD_append]
  (repeat rw [if_neg (by omega)])
  rw [if_pos (by omega), BitVec.getLsbD_eq_getElem (by omega)]
  congr 1
  omega

@[simp] theorem mkDesc_len32 : Desc.len32 (mkDesc op bpp e arg len) = len := by
  rw [mkDesc_eq]
  refine BitVec.eq_of_getElem_eq fun i hi => ?_
  rw [Desc.len32, BitVec.getElem_extractLsb']
  simp only [BitVec.getLsbD_append]
  (repeat rw [if_neg (by omega)])
  rw [BitVec.getLsbD_eq_getElem (by omega)]
  congr 1
  omega

end

/-! ### The halves of a word (R7, R45) -/

theorem joinBytes_toNat (b0 b1 : Byte) : (joinBytes b0 b1).toNat = 256 * b0.toNat + b1.toNat := by
  have h := b1.isLt
  have e : (joinBytes b0 b1).toNat = b0.toNat <<< 8 ||| b1.toNat := BitVec.toNat_append b0 b1
  rw [e, ← Nat.shiftLeft_add_eq_or_of_lt h, Nat.shiftLeft_eq]
  omega

theorem hi_toNat (w : Word) : (hi w).toNat = w.toNat / 256 := by
  have h := w.isLt
  simp only [hi, BitVec.extractLsb'_toNat, Nat.shiftRight_eq_div_pow]
  omega

theorem lo_toNat (w : Word) : (lo w).toNat = w.toNat % 256 := by
  simp [lo, BitVec.extractLsb'_toNat]

@[simp] theorem hi_joinBytes (b0 b1 : Byte) : hi (joinBytes b0 b1) = b0 := by
  apply BitVec.eq_of_toNat_eq
  have h := b1.isLt
  rw [hi_toNat, joinBytes_toNat]
  omega

@[simp] theorem lo_joinBytes (b0 b1 : Byte) : lo (joinBytes b0 b1) = b1 := by
  apply BitVec.eq_of_toNat_eq
  have h := b1.isLt
  rw [lo_toNat, joinBytes_toNat]
  omega

/-- The bytes of a word on the wire give it back. -/
@[simp] theorem joinBytes_hi_lo (w : Word) : joinBytes (hi w) (lo w) = w := by
  apply BitVec.eq_of_toNat_eq
  rw [joinBytes_toNat, hi_toNat, lo_toNat]
  omega

/-- A byte in a payload entry (R71) is read back. -/
@[simp] theorem lo_setWidth (b : Byte) : lo (b.setWidth 16) = b := by
  apply BitVec.eq_of_toNat_eq
  have h := b.isLt
  rw [lo_toNat, BitVec.toNat_setWidth]
  omega

@[simp] theorem fitsByte_setWidth (b : Byte) : fitsByte (b.setWidth 16) = true := by
  have h := b.isLt
  simp only [fitsByte, BitVec.toNat_setWidth, decide_eq_true_eq]
  omega

theorem setWidth_lo {w : Word} (h : fitsByte w = true) : (lo w).setWidth 16 = w := by
  apply BitVec.eq_of_toNat_eq
  simp only [fitsByte, decide_eq_true_eq] at h
  rw [BitVec.toNat_setWidth, lo_toNat]
  omega

/-! ### Field codes -/

@[simp] theorem depthOfCode_depthCode (d : Depth) : depthOfCode (depthCode d) = some d := by cases d <;> rfl

@[simp] theorem endianOfBit_endianBit (e : Endian) : endianOfBit (endianBit e) = e := by cases e <;> rfl

/-! ### The request decoder -/

@[simp] theorem checkField_false (v : Violation) (k : Decoded) : checkField false v k = k := rfl

@[simp] theorem checkField_true (v : Violation) (k : Decoded) : checkField true v k = .violation v := rfl

/-- A field's check lets an instruction through only where the field is as it must be. -/
theorem checkField_eq_instr {bad : Bool} {v : Violation} {k : Decoded} {i : Instr} :
    checkField bad v k = .instr i ↔ bad = false ∧ k = .instr i := by
  cases bad <;> simp

/-- A field's check answers a violation where the field is wrong, or where what follows does. -/
theorem checkField_eq_violation {bad : Bool} {v : Violation} {k : Decoded} :
    (∃ v', checkField bad v k = .violation v') ↔ bad = true ∨ ∃ v', k = .violation v' := by
  cases bad <;> simp

@[simp] theorem checkPlain_mkDesc (op : BitVec 4) (arg : Word) (len : Word32) (k : Decoded) :
    checkPlain (mkDesc op 0#3 0#1 arg len) k = k := by
  simp [checkPlain]

end Sys2Proof
end

