-- ==== Sys2Proof/Laws/State.lean ====
section
/-! SUPPORT. One lemma per field per update of State (Machine/Ops.lean, Safety.lean): what each shared operation leaves in
each field, so that no later proof unfolds a record update. -/

namespace Sys2Proof.Machine

variable (s : State)

/-! ### Appending an event (R29) -/

@[simp] theorem emit_phase (e : Event) : (emit e s).phase = s.phase := rfl
@[simp] theorem emit_req (e : Event) : (emit e s).req = s.req := rfl
@[simp] theorem emit_todo (e : Event) : (emit e s).todo = s.todo := rfl
@[simp] theorem emit_cs (e : Event) : (emit e s).cs = s.cs := rfl
@[simp] theorem emit_diValid (e : Event) : (emit e s).diValid = s.diValid := rfl
@[simp] theorem emit_lastErr (e : Event) : (emit e s).lastErr = s.lastErr := rfl
@[simp] theorem emit_di (e : Event) : (emit e s).di = s.di := rfl
@[simp] theorem emit_packGeom (e : Event) : (emit e s).packGeom = s.packGeom := rfl
@[simp] theorem emit_rx (e : Event) : (emit e s).rx = s.rx := rfl
@[simp] theorem emit_wcount (e : Event) : (emit e s).wcount = s.wcount := rfl
@[simp] theorem emit_readyTimeout (e : Event) : (emit e s).readyTimeout = s.readyTimeout := rfl
@[simp] theorem emit_trace (e : Event) : (emit e s).trace = s.trace ++ [e] := rfl
@[simp] theorem emit_responses (e : Event) : (emit e s).responses = s.responses := rfl
@[simp] theorem emit_port (e : Event) : (emit e s).port = s.port := rfl
@[simp] theorem emit_rstIn (e : Event) : (emit e s).rstIn = s.rstIn := rfl
@[simp] theorem emit_hrdyIn (e : Event) : (emit e s).hrdyIn = s.hrdyIn := rfl
@[simp] theorem emit_misoIn (e : Event) : (emit e s).misoIn = s.misoIn := rfl
@[simp] theorem emit_hrdyDrawn (e : Event) : (emit e s).hrdyDrawn = s.hrdyDrawn := rfl
@[simp] theorem emit_misoDrawn (e : Event) : (emit e s).misoDrawn = s.misoDrawn := rfl

/-! ### `CsAssert()` (R9) -/

@[simp] theorem csAssert_phase : (csAssert s).phase = s.phase := rfl
@[simp] theorem csAssert_req : (csAssert s).req = s.req := rfl
@[simp] theorem csAssert_todo : (csAssert s).todo = s.todo := rfl
@[simp] theorem csAssert_cs : (csAssert s).cs = true := rfl
@[simp] theorem csAssert_diValid : (csAssert s).diValid = s.diValid := rfl
@[simp] theorem csAssert_lastErr : (csAssert s).lastErr = s.lastErr := rfl
@[simp] theorem csAssert_di : (csAssert s).di = s.di := rfl
@[simp] theorem csAssert_packGeom : (csAssert s).packGeom = s.packGeom := rfl
@[simp] theorem csAssert_rx : (csAssert s).rx = s.rx := rfl
@[simp] theorem csAssert_wcount : (csAssert s).wcount = s.wcount := rfl
@[simp] theorem csAssert_readyTimeout : (csAssert s).readyTimeout = s.readyTimeout := rfl
@[simp] theorem csAssert_trace : (csAssert s).trace = s.trace ++ [.cs1] := rfl
@[simp] theorem csAssert_responses : (csAssert s).responses = s.responses := rfl
@[simp] theorem csAssert_port : (csAssert s).port = s.port := rfl
@[simp] theorem csAssert_rstIn : (csAssert s).rstIn = s.rstIn := rfl
@[simp] theorem csAssert_hrdyIn : (csAssert s).hrdyIn = s.hrdyIn := rfl
@[simp] theorem csAssert_misoIn : (csAssert s).misoIn = s.misoIn := rfl
@[simp] theorem csAssert_hrdyDrawn : (csAssert s).hrdyDrawn = s.hrdyDrawn := rfl
@[simp] theorem csAssert_misoDrawn : (csAssert s).misoDrawn = s.misoDrawn := rfl

/-! ### `CsDeassert()` (R9) -/

@[simp] theorem csDeassert_phase : (csDeassert s).phase = s.phase := rfl
@[simp] theorem csDeassert_req : (csDeassert s).req = s.req := rfl
@[simp] theorem csDeassert_todo : (csDeassert s).todo = s.todo := rfl
@[simp] theorem csDeassert_cs : (csDeassert s).cs = false := rfl
@[simp] theorem csDeassert_diValid : (csDeassert s).diValid = s.diValid := rfl
@[simp] theorem csDeassert_lastErr : (csDeassert s).lastErr = s.lastErr := rfl
@[simp] theorem csDeassert_di : (csDeassert s).di = s.di := rfl
@[simp] theorem csDeassert_packGeom : (csDeassert s).packGeom = s.packGeom := rfl
@[simp] theorem csDeassert_rx : (csDeassert s).rx = s.rx := rfl
@[simp] theorem csDeassert_wcount : (csDeassert s).wcount = s.wcount := rfl
@[simp] theorem csDeassert_readyTimeout : (csDeassert s).readyTimeout = s.readyTimeout := rfl
@[simp] theorem csDeassert_trace : (csDeassert s).trace = s.trace ++ [.cs0] := rfl
@[simp] theorem csDeassert_responses : (csDeassert s).responses = s.responses := rfl
@[simp] theorem csDeassert_port : (csDeassert s).port = s.port := rfl
@[simp] theorem csDeassert_rstIn : (csDeassert s).rstIn = s.rstIn := rfl
@[simp] theorem csDeassert_hrdyIn : (csDeassert s).hrdyIn = s.hrdyIn := rfl
@[simp] theorem csDeassert_misoIn : (csDeassert s).misoIn = s.misoIn := rfl
@[simp] theorem csDeassert_hrdyDrawn : (csDeassert s).hrdyDrawn = s.hrdyDrawn := rfl
@[simp] theorem csDeassert_misoDrawn : (csDeassert s).misoDrawn = s.misoDrawn := rfl

/-! ### `Respond(status, data)` (R211) -/

@[simp] theorem respond_phase (st : Status) (data : List Word) : (respond st data s).phase = .idle := rfl
@[simp] theorem respond_req (st : Status) (data : List Word) : (respond st data s).req = none := rfl
@[simp] theorem respond_todo (st : Status) (data : List Word) : (respond st data s).todo = [] := rfl
@[simp] theorem respond_cs (st : Status) (data : List Word) : (respond st data s).cs = s.cs := rfl
@[simp] theorem respond_diValid (st : Status) (data : List Word) : (respond st data s).diValid = s.diValid := rfl
@[simp] theorem respond_lastErr (st : Status) (data : List Word) : (respond st data s).lastErr = st := rfl
@[simp] theorem respond_di (st : Status) (data : List Word) : (respond st data s).di = s.di := rfl
@[simp] theorem respond_packGeom (st : Status) (data : List Word) : (respond st data s).packGeom = s.packGeom := rfl
@[simp] theorem respond_rx (st : Status) (data : List Word) : (respond st data s).rx = [] := rfl
@[simp] theorem respond_wcount (st : Status) (data : List Word) : (respond st data s).wcount = 0 := rfl
@[simp] theorem respond_readyTimeout (st : Status) (data : List Word) :
    (respond st data s).readyTimeout = s.readyTimeout := rfl
@[simp] theorem respond_trace (st : Status) (data : List Word) : (respond st data s).trace = s.trace := rfl
@[simp] theorem respond_responses (st : Status) (data : List Word) :
    (respond st data s).responses = s.responses ++ [⟨st, data⟩] := rfl
@[simp] theorem respond_port (st : Status) (data : List Word) : (respond st data s).port = s.port := rfl
@[simp] theorem respond_rstIn (st : Status) (data : List Word) : (respond st data s).rstIn = s.rstIn := rfl
@[simp] theorem respond_hrdyIn (st : Status) (data : List Word) : (respond st data s).hrdyIn = s.hrdyIn := rfl
@[simp] theorem respond_misoIn (st : Status) (data : List Word) : (respond st data s).misoIn = s.misoIn := rfl
@[simp] theorem respond_hrdyDrawn (st : Status) (data : List Word) :
    (respond st data s).hrdyDrawn = s.hrdyDrawn := rfl
@[simp] theorem respond_misoDrawn (st : Status) (data : List Word) :
    (respond st data s).misoDrawn = s.misoDrawn := rfl

/-! ### A request's start (R22, R31) -/

@[simp] theorem begin_phase : (begin s).phase = .busy := rfl
@[simp] theorem begin_req : (begin s).req = s.req := rfl
@[simp] theorem begin_todo : (begin s).todo = s.todo := rfl
@[simp] theorem begin_cs : (begin s).cs = s.cs := rfl
@[simp] theorem begin_diValid : (begin s).diValid = s.diValid := rfl
@[simp] theorem begin_lastErr : (begin s).lastErr = s.lastErr := rfl
@[simp] theorem begin_di : (begin s).di = s.di := rfl
@[simp] theorem begin_packGeom : (begin s).packGeom = s.packGeom := rfl
@[simp] theorem begin_rx : (begin s).rx = [] := rfl
@[simp] theorem begin_wcount : (begin s).wcount = 0 := rfl
@[simp] theorem begin_readyTimeout : (begin s).readyTimeout = s.readyTimeout := rfl
@[simp] theorem begin_trace : (begin s).trace = s.trace := rfl
@[simp] theorem begin_responses : (begin s).responses = s.responses := rfl
@[simp] theorem begin_port : (begin s).port = s.port := rfl
@[simp] theorem begin_rstIn : (begin s).rstIn = s.rstIn := rfl
@[simp] theorem begin_hrdyIn : (begin s).hrdyIn = s.hrdyIn := rfl
@[simp] theorem begin_misoIn : (begin s).misoIn = s.misoIn := rfl
@[simp] theorem begin_hrdyDrawn : (begin s).hrdyDrawn = s.hrdyDrawn := rfl
@[simp] theorem begin_misoDrawn : (begin s).misoDrawn = s.misoDrawn := rfl

/-! ### Acceptance (R22, R23, R210) -/

@[simp] theorem accept_phase (r : Request) : (accept r s).phase = .busy := rfl
@[simp] theorem accept_req (r : Request) : (accept r s).req = some r := rfl
@[simp] theorem accept_todo (r : Request) : (accept r s).todo = s.todo := rfl
@[simp] theorem accept_cs (r : Request) : (accept r s).cs = s.cs := rfl
@[simp] theorem accept_diValid (r : Request) : (accept r s).diValid = s.diValid := rfl
@[simp] theorem accept_lastErr (r : Request) : (accept r s).lastErr = s.lastErr := rfl
@[simp] theorem accept_di (r : Request) : (accept r s).di = s.di := rfl
@[simp] theorem accept_packGeom (r : Request) : (accept r s).packGeom = s.packGeom := rfl
@[simp] theorem accept_rx (r : Request) : (accept r s).rx = s.rx := rfl
@[simp] theorem accept_wcount (r : Request) : (accept r s).wcount = s.wcount := rfl
@[simp] theorem accept_readyTimeout (r : Request) : (accept r s).readyTimeout = s.readyTimeout := rfl
@[simp] theorem accept_trace (r : Request) : (accept r s).trace = s.trace := rfl
@[simp] theorem accept_responses (r : Request) : (accept r s).responses = s.responses := rfl
@[simp] theorem accept_port (r : Request) : (accept r s).port = s.port.tail := rfl
@[simp] theorem accept_rstIn (r : Request) : (accept r s).rstIn = s.rstIn := rfl
@[simp] theorem accept_hrdyIn (r : Request) : (accept r s).hrdyIn = s.hrdyIn := rfl
@[simp] theorem accept_misoIn (r : Request) : (accept r s).misoIn = s.misoIn := rfl
@[simp] theorem accept_hrdyDrawn (r : Request) : (accept r s).hrdyDrawn = s.hrdyDrawn := rfl
@[simp] theorem accept_misoDrawn (r : Request) : (accept r s).misoDrawn = s.misoDrawn := rfl

/-! ### One sample of `rst` -/

@[simp] theorem takeRst_phase : (takeRst s).phase = s.phase := rfl
@[simp] theorem takeRst_req : (takeRst s).req = s.req := rfl
@[simp] theorem takeRst_todo : (takeRst s).todo = s.todo := rfl
@[simp] theorem takeRst_cs : (takeRst s).cs = s.cs := rfl
@[simp] theorem takeRst_diValid : (takeRst s).diValid = s.diValid := rfl
@[simp] theorem takeRst_lastErr : (takeRst s).lastErr = s.lastErr := rfl
@[simp] theorem takeRst_di : (takeRst s).di = s.di := rfl
@[simp] theorem takeRst_packGeom : (takeRst s).packGeom = s.packGeom := rfl
@[simp] theorem takeRst_rx : (takeRst s).rx = s.rx := rfl
@[simp] theorem takeRst_wcount : (takeRst s).wcount = s.wcount := rfl
@[simp] theorem takeRst_readyTimeout : (takeRst s).readyTimeout = s.readyTimeout := rfl
@[simp] theorem takeRst_trace : (takeRst s).trace = s.trace := rfl
@[simp] theorem takeRst_responses : (takeRst s).responses = s.responses := rfl
@[simp] theorem takeRst_port : (takeRst s).port = s.port := rfl
@[simp] theorem takeRst_rstIn : (takeRst s).rstIn = s.rstIn.tail := rfl
@[simp] theorem takeRst_hrdyIn : (takeRst s).hrdyIn = s.hrdyIn := rfl
@[simp] theorem takeRst_misoIn : (takeRst s).misoIn = s.misoIn := rfl
@[simp] theorem takeRst_hrdyDrawn : (takeRst s).hrdyDrawn = s.hrdyDrawn := rfl
@[simp] theorem takeRst_misoDrawn : (takeRst s).misoDrawn = s.misoDrawn := rfl

/-! ### Reset (R32, R240) -/

@[simp] theorem applyReset_phase : (applyReset s).phase = .idle := rfl
@[simp] theorem applyReset_req : (applyReset s).req = none := rfl
@[simp] theorem applyReset_todo : (applyReset s).todo = [] := rfl
@[simp] theorem applyReset_cs : (applyReset s).cs = false := rfl
@[simp] theorem applyReset_diValid : (applyReset s).diValid = false := rfl
@[simp] theorem applyReset_lastErr : (applyReset s).lastErr = .ok := rfl
@[simp] theorem applyReset_di : (applyReset s).di = DiCache.zero := rfl
@[simp] theorem applyReset_packGeom : (applyReset s).packGeom = 0 := rfl
@[simp] theorem applyReset_rx : (applyReset s).rx = [] := rfl
@[simp] theorem applyReset_wcount : (applyReset s).wcount = 0 := rfl
@[simp] theorem applyReset_readyTimeout : (applyReset s).readyTimeout = s.readyTimeout := rfl
@[simp] theorem applyReset_trace : (applyReset s).trace = if s.cs then s.trace ++ [.cs0] else s.trace := rfl
@[simp] theorem applyReset_responses : (applyReset s).responses = s.responses := rfl
@[simp] theorem applyReset_port : (applyReset s).port = s.port := rfl
@[simp] theorem applyReset_rstIn : (applyReset s).rstIn = s.rstIn := rfl
@[simp] theorem applyReset_hrdyIn : (applyReset s).hrdyIn = s.hrdyIn := rfl
@[simp] theorem applyReset_misoIn : (applyReset s).misoIn = s.misoIn := rfl
@[simp] theorem applyReset_hrdyDrawn : (applyReset s).hrdyDrawn = s.hrdyDrawn := rfl
@[simp] theorem applyReset_misoDrawn : (applyReset s).misoDrawn = s.misoDrawn := rfl

/-! ### One received byte (R103) -/

@[simp] theorem takeMiso_phase : (takeMiso s).phase = s.phase := by
  unfold takeMiso; split <;> rfl
@[simp] theorem takeMiso_req : (takeMiso s).req = s.req := by
  unfold takeMiso; split <;> rfl
@[simp] theorem takeMiso_todo : (takeMiso s).todo = s.todo := by
  unfold takeMiso; split <;> rfl
@[simp] theorem takeMiso_cs : (takeMiso s).cs = s.cs := by
  unfold takeMiso; split <;> rfl
@[simp] theorem takeMiso_diValid : (takeMiso s).diValid = s.diValid := by
  unfold takeMiso; split <;> rfl
@[simp] theorem takeMiso_lastErr : (takeMiso s).lastErr = s.lastErr := by
  unfold takeMiso; split <;> rfl
@[simp] theorem takeMiso_di : (takeMiso s).di = s.di := by
  unfold takeMiso; split <;> rfl
@[simp] theorem takeMiso_packGeom : (takeMiso s).packGeom = s.packGeom := by
  unfold takeMiso; split <;> rfl
@[simp] theorem takeMiso_rx : (takeMiso s).rx = s.rx := by
  unfold takeMiso; split <;> rfl
@[simp] theorem takeMiso_wcount : (takeMiso s).wcount = s.wcount := by
  unfold takeMiso; split <;> rfl
@[simp] theorem takeMiso_readyTimeout : (takeMiso s).readyTimeout = s.readyTimeout := by
  unfold takeMiso; split <;> rfl
@[simp] theorem takeMiso_trace : (takeMiso s).trace = s.trace := by
  unfold takeMiso; split <;> rfl
@[simp] theorem takeMiso_responses : (takeMiso s).responses = s.responses := by
  unfold takeMiso; split <;> rfl
@[simp] theorem takeMiso_port : (takeMiso s).port = s.port := by
  unfold takeMiso; split <;> rfl
@[simp] theorem takeMiso_rstIn : (takeMiso s).rstIn = s.rstIn := by
  unfold takeMiso; split <;> rfl
@[simp] theorem takeMiso_hrdyIn : (takeMiso s).hrdyIn = s.hrdyIn := by
  unfold takeMiso; split <;> rfl
@[simp] theorem takeMiso_hrdyDrawn : (takeMiso s).hrdyDrawn = s.hrdyDrawn := by
  unfold takeMiso; split <;> rfl

/-! ### `Xfer16(o)` (R102) -/

@[simp] theorem xfer16_phase (o : Word) : (xfer16 o s).phase = s.phase := by
  simp [xfer16]
@[simp] theorem xfer16_req (o : Word) : (xfer16 o s).req = s.req := by
  simp [xfer16]
@[simp] theorem xfer16_todo (o : Word) : (xfer16 o s).todo = s.todo := by
  simp [xfer16]
@[simp] theorem xfer16_cs (o : Word) : (xfer16 o s).cs = s.cs := by
  simp [xfer16]
@[simp] theorem xfer16_diValid (o : Word) : (xfer16 o s).diValid = s.diValid := by
  simp [xfer16]
@[simp] theorem xfer16_lastErr (o : Word) : (xfer16 o s).lastErr = s.lastErr := by
  simp [xfer16]
@[simp] theorem xfer16_di (o : Word) : (xfer16 o s).di = s.di := by
  simp [xfer16]
@[simp] theorem xfer16_packGeom (o : Word) : (xfer16 o s).packGeom = s.packGeom := by
  simp [xfer16]
@[simp] theorem xfer16_rx (o : Word) : (xfer16 o s).rx = s.rx := by
  simp [xfer16]
@[simp] theorem xfer16_wcount (o : Word) : (xfer16 o s).wcount = s.wcount := by
  simp [xfer16]
@[simp] theorem xfer16_readyTimeout (o : Word) : (xfer16 o s).readyTimeout = s.readyTimeout := by
  simp [xfer16]
@[simp] theorem xfer16_trace (o : Word) : (xfer16 o s).trace = s.trace ++ [.x16 o (nextWord s)] := by
  simp [xfer16]
@[simp] theorem xfer16_responses (o : Word) : (xfer16 o s).responses = s.responses := by
  simp [xfer16]
@[simp] theorem xfer16_port (o : Word) : (xfer16 o s).port = s.port := by
  simp [xfer16]
@[simp] theorem xfer16_rstIn (o : Word) : (xfer16 o s).rstIn = s.rstIn := by
  simp [xfer16]
@[simp] theorem xfer16_hrdyIn (o : Word) : (xfer16 o s).hrdyIn = s.hrdyIn := by
  simp [xfer16]
@[simp] theorem xfer16_hrdyDrawn (o : Word) : (xfer16 o s).hrdyDrawn = s.hrdyDrawn := by
  simp [xfer16]

/-! ### `Xfer8(o)` (R103) -/

@[simp] theorem xfer8_phase (o : Byte) : (xfer8 o s).phase = s.phase := by
  simp [xfer8]
@[simp] theorem xfer8_req (o : Byte) : (xfer8 o s).req = s.req := by
  simp [xfer8]
@[simp] theorem xfer8_todo (o : Byte) : (xfer8 o s).todo = s.todo := by
  simp [xfer8]
@[simp] theorem xfer8_cs (o : Byte) : (xfer8 o s).cs = s.cs := by
  simp [xfer8]
@[simp] theorem xfer8_diValid (o : Byte) : (xfer8 o s).diValid = s.diValid := by
  simp [xfer8]
@[simp] theorem xfer8_lastErr (o : Byte) : (xfer8 o s).lastErr = s.lastErr := by
  simp [xfer8]
@[simp] theorem xfer8_di (o : Byte) : (xfer8 o s).di = s.di := by
  simp [xfer8]
@[simp] theorem xfer8_packGeom (o : Byte) : (xfer8 o s).packGeom = s.packGeom := by
  simp [xfer8]
@[simp] theorem xfer8_rx (o : Byte) : (xfer8 o s).rx = s.rx := by
  simp [xfer8]
@[simp] theorem xfer8_wcount (o : Byte) : (xfer8 o s).wcount = s.wcount := by
  simp [xfer8]
@[simp] theorem xfer8_readyTimeout (o : Byte) : (xfer8 o s).readyTimeout = s.readyTimeout := by
  simp [xfer8]
@[simp] theorem xfer8_trace (o : Byte) : (xfer8 o s).trace = s.trace ++ [.x8 o (nextMiso s)] := by
  simp [xfer8]
@[simp] theorem xfer8_responses (o : Byte) : (xfer8 o s).responses = s.responses := by
  simp [xfer8]
@[simp] theorem xfer8_port (o : Byte) : (xfer8 o s).port = s.port := by
  simp [xfer8]
@[simp] theorem xfer8_rstIn (o : Byte) : (xfer8 o s).rstIn = s.rstIn := by
  simp [xfer8]
@[simp] theorem xfer8_hrdyIn (o : Byte) : (xfer8 o s).hrdyIn = s.hrdyIn := by
  simp [xfer8]
@[simp] theorem xfer8_hrdyDrawn (o : Byte) : (xfer8 o s).hrdyDrawn = s.hrdyDrawn := by
  simp [xfer8]

/-! ### One fresh HRDY sample where none is queued (R101) -/

@[simp] theorem supplyHrdy_phase : (supplyHrdy s).phase = s.phase := by
  unfold supplyHrdy; split <;> rfl
@[simp] theorem supplyHrdy_req : (supplyHrdy s).req = s.req := by
  unfold supplyHrdy; split <;> rfl
@[simp] theorem supplyHrdy_todo : (supplyHrdy s).todo = s.todo := by
  unfold supplyHrdy; split <;> rfl
@[simp] theorem supplyHrdy_cs : (supplyHrdy s).cs = s.cs := by
  unfold supplyHrdy; split <;> rfl
@[simp] theorem supplyHrdy_diValid : (supplyHrdy s).diValid = s.diValid := by
  unfold supplyHrdy; split <;> rfl
@[simp] theorem supplyHrdy_lastErr : (supplyHrdy s).lastErr = s.lastErr := by
  unfold supplyHrdy; split <;> rfl
@[simp] theorem supplyHrdy_di : (supplyHrdy s).di = s.di := by
  unfold supplyHrdy; split <;> rfl
@[simp] theorem supplyHrdy_packGeom : (supplyHrdy s).packGeom = s.packGeom := by
  unfold supplyHrdy; split <;> rfl
@[simp] theorem supplyHrdy_rx : (supplyHrdy s).rx = s.rx := by
  unfold supplyHrdy; split <;> rfl
@[simp] theorem supplyHrdy_wcount : (supplyHrdy s).wcount = s.wcount := by
  unfold supplyHrdy; split <;> rfl
@[simp] theorem supplyHrdy_readyTimeout : (supplyHrdy s).readyTimeout = s.readyTimeout := by
  unfold supplyHrdy; split <;> rfl
@[simp] theorem supplyHrdy_trace : (supplyHrdy s).trace = s.trace := by
  unfold supplyHrdy; split <;> rfl
@[simp] theorem supplyHrdy_responses : (supplyHrdy s).responses = s.responses := by
  unfold supplyHrdy; split <;> rfl
@[simp] theorem supplyHrdy_port : (supplyHrdy s).port = s.port := by
  unfold supplyHrdy; split <;> rfl
@[simp] theorem supplyHrdy_rstIn : (supplyHrdy s).rstIn = s.rstIn := by
  unfold supplyHrdy; split <;> rfl
@[simp] theorem supplyHrdy_misoIn : (supplyHrdy s).misoIn = s.misoIn := by
  unfold supplyHrdy; split <;> rfl
@[simp] theorem supplyHrdy_misoDrawn : (supplyHrdy s).misoDrawn = s.misoDrawn := by
  unfold supplyHrdy; split <;> rfl

/-! ### The CHIP's inputs after a transaction -/

@[simp] theorem afterWire_phase (rest : List Bool) (n : Nat) : (afterWire rest n s).phase = s.phase := rfl
@[simp] theorem afterWire_req (rest : List Bool) (n : Nat) : (afterWire rest n s).req = s.req := rfl
@[simp] theorem afterWire_todo (rest : List Bool) (n : Nat) : (afterWire rest n s).todo = s.todo := rfl
@[simp] theorem afterWire_cs (rest : List Bool) (n : Nat) : (afterWire rest n s).cs = s.cs := rfl
@[simp] theorem afterWire_diValid (rest : List Bool) (n : Nat) : (afterWire rest n s).diValid = s.diValid := rfl
@[simp] theorem afterWire_lastErr (rest : List Bool) (n : Nat) : (afterWire rest n s).lastErr = s.lastErr := rfl
@[simp] theorem afterWire_di (rest : List Bool) (n : Nat) : (afterWire rest n s).di = s.di := rfl
@[simp] theorem afterWire_packGeom (rest : List Bool) (n : Nat) : (afterWire rest n s).packGeom = s.packGeom := rfl
@[simp] theorem afterWire_rx (rest : List Bool) (n : Nat) : (afterWire rest n s).rx = s.rx := rfl
@[simp] theorem afterWire_wcount (rest : List Bool) (n : Nat) : (afterWire rest n s).wcount = s.wcount := rfl
@[simp] theorem afterWire_readyTimeout (rest : List Bool) (n : Nat) :
    (afterWire rest n s).readyTimeout = s.readyTimeout := rfl
@[simp] theorem afterWire_trace (rest : List Bool) (n : Nat) : (afterWire rest n s).trace = s.trace := rfl
@[simp] theorem afterWire_responses (rest : List Bool) (n : Nat) : (afterWire rest n s).responses = s.responses := rfl
@[simp] theorem afterWire_port (rest : List Bool) (n : Nat) : (afterWire rest n s).port = s.port := rfl
@[simp] theorem afterWire_rstIn (rest : List Bool) (n : Nat) : (afterWire rest n s).rstIn = s.rstIn := rfl
@[simp] theorem afterWire_hrdyIn (rest : List Bool) (n : Nat) : (afterWire rest n s).hrdyIn = rest := rfl
@[simp] theorem afterWire_misoIn (rest : List Bool) (n : Nat) : (afterWire rest n s).misoIn = s.misoIn.drop n := rfl
@[simp] theorem afterWire_hrdyDrawn (rest : List Bool) (n : Nat) : (afterWire rest n s).hrdyDrawn = s.hrdyDrawn := rfl
@[simp] theorem afterWire_misoDrawn (rest : List Bool) (n : Nat) :
    (afterWire rest n s).misoDrawn = s.misoDrawn + (n - s.misoIn.length) := rfl

/-! ### A request over with a response (R211) -/

@[simp] theorem answered_phase (st : Status) (data : List Word) (ev : List Event) :
    (answered st data ev s).phase = .idle := rfl
@[simp] theorem answered_req (st : Status) (data : List Word) (ev : List Event) :
    (answered st data ev s).req = none := rfl
@[simp] theorem answered_todo (st : Status) (data : List Word) (ev : List Event) :
    (answered st data ev s).todo = [] := rfl
@[simp] theorem answered_cs (st : Status) (data : List Word) (ev : List Event) :
    (answered st data ev s).cs = false := rfl
@[simp] theorem answered_diValid (st : Status) (data : List Word) (ev : List Event) :
    (answered st data ev s).diValid = s.diValid := rfl
@[simp] theorem answered_lastErr (st : Status) (data : List Word) (ev : List Event) :
    (answered st data ev s).lastErr = st := rfl
@[simp] theorem answered_di (st : Status) (data : List Word) (ev : List Event) :
    (answered st data ev s).di = s.di := rfl
@[simp] theorem answered_packGeom (st : Status) (data : List Word) (ev : List Event) :
    (answered st data ev s).packGeom = s.packGeom := rfl
@[simp] theorem answered_rx (st : Status) (data : List Word) (ev : List Event) : (answered st data ev s).rx = [] := rfl
@[simp] theorem answered_wcount (st : Status) (data : List Word) (ev : List Event) :
    (answered st data ev s).wcount = 0 := rfl
@[simp] theorem answered_readyTimeout (st : Status) (data : List Word) (ev : List Event) :
    (answered st data ev s).readyTimeout = s.readyTimeout := rfl
@[simp] theorem answered_trace (st : Status) (data : List Word) (ev : List Event) :
    (answered st data ev s).trace = s.trace ++ ev := rfl
@[simp] theorem answered_responses (st : Status) (data : List Word) (ev : List Event) :
    (answered st data ev s).responses = s.responses ++ [⟨st, data⟩] := rfl
@[simp] theorem answered_port (st : Status) (data : List Word) (ev : List Event) :
    (answered st data ev s).port = s.port := rfl
@[simp] theorem answered_rstIn (st : Status) (data : List Word) (ev : List Event) :
    (answered st data ev s).rstIn = s.rstIn := rfl
@[simp] theorem answered_hrdyIn (st : Status) (data : List Word) (ev : List Event) :
    (answered st data ev s).hrdyIn = s.hrdyIn := rfl
@[simp] theorem answered_misoIn (st : Status) (data : List Word) (ev : List Event) :
    (answered st data ev s).misoIn = s.misoIn := rfl
@[simp] theorem answered_hrdyDrawn (st : Status) (data : List Word) (ev : List Event) :
    (answered st data ev s).hrdyDrawn = s.hrdyDrawn := rfl
@[simp] theorem answered_misoDrawn (st : Status) (data : List Word) (ev : List Event) :
    (answered st data ev s).misoDrawn = s.misoDrawn := rfl

end Sys2Proof.Machine
end

