-- ==== Sys2Proof/Laws/Ops.lean ====
section
/-! SUPPORT. One lemma per shared operation of Machine/Ops.lean: what the CHIP's inputs, the ready-wait, one act and a
run of acts do. -/

namespace Sys2Proof.Machine

/-! ### The CHIP's inputs -/

@[simp] theorem misoByteAt_afterWire (rest : List Bool) (n j : Nat) (s : State) :
    misoByteAt (afterWire rest n s) j = misoByteAt s (n + j) := by
  unfold misoByteAt afterWire
  simp only [List.length_drop]
  by_cases h : n + j < s.misoIn.length
  · have h1 : j < s.misoIn.length - n := by omega
    simp [h, h1, List.getD_eq_getElem?_getD]
  · have h1 : ¬ j < s.misoIn.length - n := by omega
    simp only [h, h1, if_false]
    congr 1
    omega

@[simp] theorem misoWordFrom_afterWire (rest : List Bool) (n j : Nat) (s : State) :
    misoWordFrom (afterWire rest n s) j = misoWordFrom s (n + j) := by
  simp [misoWordFrom, Nat.add_assoc]

theorem misoWordAt_afterWire (rest : List Bool) (n k : Nat) (s : State) :
    misoWordAt (afterWire rest (2 * n) s) k = misoWordAt s (n + k) := by
  simp [misoWordAt, Nat.mul_add]

/-- The inputs are all that a received byte depends on. -/
theorem misoByteAt_congr {s t : State} (h : t.misoIn = s.misoIn) (h' : t.misoDrawn = s.misoDrawn) (j : Nat) :
    misoByteAt t j = misoByteAt s j := by
  simp [misoByteAt, h, h']

theorem misoWordAt_congr {s t : State} (h : t.misoIn = s.misoIn) (h' : t.misoDrawn = s.misoDrawn) (k : Nat) :
    misoWordAt t k = misoWordAt s k := by
  simp [misoWordAt, misoWordFrom, misoByteAt, h, h']

theorem nextMiso_eq (s : State) : nextMiso s = misoByteAt s 0 := by
  unfold nextMiso misoByteAt
  cases h : s.misoIn <;> simp

theorem takeMiso_eq (s : State) : takeMiso s = afterWire s.hrdyIn 1 s := by
  unfold takeMiso afterWire
  cases h : s.misoIn with
  | nil => simp
  | cons b rest => simp

theorem nextWord_eq (s : State) : nextWord s = misoWordAt s 0 := by
  simp [nextWord, nextMiso_eq, takeMiso_eq, misoWordAt, misoWordFrom]

theorem takeMiso_twice (s : State) : takeMiso (takeMiso s) = afterWire s.hrdyIn 2 s := by
  rw [takeMiso_eq (takeMiso s), takeMiso_eq s]
  simp only [afterWire, List.drop_drop, List.length_drop]
  congr 1
  omega

theorem afterWire_afterWire (r r' : List Bool) (m n : Nat) (s : State) :
    afterWire r' n (afterWire r m s) = afterWire r' (m + n) s := by
  simp only [afterWire, List.drop_drop, List.length_drop]
  congr 1
  omega

/-- `Xfer16(o)` (R102): two bytes received, one event. -/
theorem xfer16_eq (o : Word) (s : State) :
    xfer16 o s = { afterWire s.hrdyIn 2 s with trace := s.trace ++ [.x16 o (misoWordAt s 0)] } := by
  simp [xfer16, emit, takeMiso_twice, nextWord_eq, afterWire]

/-- `Xfer8(o)` (R103): one byte received, one event. -/
theorem xfer8_eq (o : Byte) (s : State) :
    xfer8 o s = { afterWire s.hrdyIn 1 s with trace := s.trace ++ [.x8 o (misoByteAt s 0)] } := by
  simp [xfer8, emit, takeMiso_eq, nextMiso_eq, afterWire]

/-! ### `rst` -/

@[simp] theorem rstAsserted_of_nil {s : State} (h : s.rstIn = []) : rstAsserted s = false := by
  simp [rstAsserted, h]

@[simp] theorem takeRst_of_nil {s : State} (h : s.rstIn = []) : takeRst s = s := by
  cases s; simp_all [takeRst]

/-! ### The ready-wait (R101) -/

/-- What sampling answers, and that it takes no more than the queue holds. -/
theorem sampleHrdy_pass (limit : Option Nat) (z : Nat) (rest : List Bool) (wc : Nat)
    (h : ∀ k, limit = some k → wc + z < k) :
    sampleHrdy limit (List.replicate z false ++ true :: rest) wc = .ready rest := by
  induction z generalizing wc with
  | zero => rfl
  | succ z ih =>
    rw [List.replicate_succ, List.cons_append]
    cases limit with
    | none => exact ih wc (by simp)
    | some k =>
      have hk := h k rfl
      have : ¬ wc + 1 ≥ k := by omega
      simp only [sampleHrdy, this, if_false]
      exact ih (wc + 1) (by intro k' hk'; cases hk'; omega)

/-- Only 0 samples and no timeout: the wait holds, uncounted (R101, R218 a). -/
theorem sampleHrdy_hold (tape : List Bool) (wc : Nat) (h : ∀ b ∈ tape, b = false) :
    sampleHrdy none tape wc = .hold wc := by
  induction tape with
  | nil => rfl
  | cons b rest ih =>
    have hb : b = false := h b (by simp)
    subst hb
    exact ih fun c hc => h c (by simp [hc])

/-- The k-th consecutive 0 sample times out (R101, R218 b). -/
theorem sampleHrdy_timeout (k z : Nat) (rest : List Bool) (wc : Nat) (hz : 0 < z) (h : wc + z = k) :
    sampleHrdy (some k) (List.replicate z false ++ rest) wc = .timeout rest k := by
  induction z generalizing wc with
  | zero => omega
  | succ z ih =>
    rw [List.replicate_succ, List.cons_append]
    by_cases hk : wc + 1 ≥ k
    · have hz0 : z = 0 := by omega
      have hw : wc + 1 = k := by omega
      subst hz0
      simp [sampleHrdy, hw]
    · simp only [sampleHrdy, hk, if_false]
      exact ih (wc + 1) (by omega) (by omega)

/-- A timeout needs a limit. -/
theorem sampleHrdy_limit {limit : Option Nat} {tape rest : List Bool} {wc wc' : Nat}
    (h : sampleHrdy limit tape wc = .timeout rest wc') : limit ≠ none := by
  rintro rfl
  induction tape generalizing wc with
  | nil => simp [sampleHrdy] at h
  | cons b t ih =>
    cases b
    · exact ih h
    · simp [sampleHrdy] at h

/-- Sampling that ends in a hold goes on, with more samples, from the count it held at. -/
theorem sampleHrdy_append {limit : Option Nat} {tape more : List Bool} {wc wc' : Nat}
    (h : sampleHrdy limit tape wc = .hold wc') :
    sampleHrdy limit (tape ++ more) wc = sampleHrdy limit more wc' := by
  induction tape generalizing wc with
  | nil =>
    simp only [sampleHrdy, Sampled.hold.injEq] at h
    rw [List.nil_append, h]
  | cons b t ih =>
    cases b
    · cases limit with
      | none => exact ih h
      | some k =>
        rw [List.cons_append, sampleHrdy]
        rw [sampleHrdy] at h
        split at h
        · cases h
        · next hk => rw [if_neg hk]; exact ih h
    · simp [sampleHrdy] at h

/-- Everything a ready-wait can do: `RDY` and on, the hold with the queue used up, or E_TIMEOUT where a limit is set. -/
theorem waitReady_cases (s : State) :
    (∃ rest, waitReady s = .go (emit .rdy { s with hrdyIn := rest, wcount := 0 })) ∨
    (∃ wc, waitReady s = .hold { s with hrdyIn := [], wcount := wc }) ∨
    (s.readyTimeout ≠ none ∧
      ∃ rest wc, waitReady s = .ended (raiseError .timeout { s with hrdyIn := rest, wcount := wc })) := by
  unfold waitReady
  split
  · exact .inl ⟨_, rfl⟩
  · exact .inr (.inl ⟨_, rfl⟩)
  · next h => exact .inr (.inr ⟨sampleHrdy_limit h, _, _, rfl⟩)

/-- `raise E` (R212) with chip-select released. -/
theorem raiseError_released {s : State} (h : s.cs = false) (e : Status) : raiseError e s = respond e [] s := by
  simp [raiseError, h]

/-- `raise E` (R212) inside a transaction. -/
theorem raiseError_asserted {s : State} (h : s.cs = true) (e : Status) :
    raiseError e s = respond e [] (csDeassert s) := by
  simp [raiseError, h]

/-! ### The wire grammar -/

/-- A longer trace leads on from where the shorter one leads. -/
theorem scan_append (t u : List Event) (p : BusPos) : scan (t ++ u) p = (scan t p).bind (scan u) := by
  induction t generalizing p with
  | nil => rfl
  | cons e t ih =>
    simp only [List.cons_append, scan]
    cases p.next e with
    | none => rfl
    | some q => exact ih q

/-- The last read of a trace with one event more. -/
theorem lastReadFrom_snoc {t : List Event} {p q : BusPos} (h : scan t p = some q) (e : Event) (ws : List Word) :
    lastReadFrom (t ++ [e]) p ws = q.readWords e (lastReadFrom t p ws) := by
  induction t generalizing p ws with
  | nil => cases h; rfl
  | cons d t ih =>
    cases hd : p.next d <;> simp only [scan, hd, Option.bind_none, Option.bind_some, reduceCtorEq] at h
    simp only [List.cons_append, lastReadFrom, hd, Option.getD_some]
    exact ih h _

/-! ### One act -/

/-- What an act that goes on leaves: all but the wire, `rx`, `wcount` and the CHIP's inputs is as it was; one event on
the trace, the one the grammar's position takes for the act; `rx`, which goes on as the trace's last read does, and
`wcount` as their rules say (R31, R107). -/
structure GoesOn (a : Act) (s t : State) : Prop where
  phase : t.phase = s.phase
  req : t.req = s.req
  todo : t.todo = s.todo
  diValid : t.diValid = s.diValid
  lastErr : t.lastErr = s.lastErr
  di : t.di = s.di
  packGeom : t.packGeom = s.packGeom
  readyTimeout : t.readyTimeout = s.readyTimeout
  responses : t.responses = s.responses
  port : t.port = s.port
  rstIn : t.rstIn = s.rstIn
  hrdyDrawn : t.hrdyDrawn = s.hrdyDrawn
  event : ∃ e, t.trace = s.trace ++ [e] ∧ ∀ p q : BusPos, p.act a = some q → p.next e = some q ∧
    ∀ ws, s.rx = ws ∨ s.rx = [] ∧ p.inRead = false →
      t.rx = p.readWords e ws ∨ t.rx = [] ∧ q.inRead = false
  cs : ∀ p q : BusPos, p.act a = some q → s.cs = p.inside → t.cs = q.inside
  rx : t.rx.length = received [a] s.rx.length
  wcount : t.wcount = 0 ∨ t.wcount = s.wcount ∧ a ≠ .wait

theorem BusPos.inside_rdy {p q : BusPos} (h : p.rdy = some q) : q.inside = p.inside := by
  cases p <;> simp only [BusPos.rdy, Option.some.injEq, reduceCtorEq] at h <;> subst h <;> rfl

theorem BusPos.inside_byte {p q : BusPos} (h : p.byte = some q) : q.inside = p.inside := by
  cases p <;> simp only [BusPos.byte, Option.some.injEq, reduceCtorEq] at h <;> subst h <;> rfl

theorem BusPos.inside_word {o : Word} {p q : BusPos} (h : p.word o = some q) : q.inside = p.inside := by
  cases p <;> simp only [BusPos.word, Option.some.injEq, reduceCtorEq] at h
  case openedRdy => split at h <;> [skip; split at h <;> [skip; split at h]] <;> simp_all <;> subst h <;> rfl
  case rdRdy => split at h <;> simp_all; subst h; rfl
  all_goals subst h; rfl

/-- A ready-wait neither starts nor ends a read. -/
theorem BusPos.inRead_rdy {p q : BusPos} (h : p.rdy = some q) : q.inRead = p.inRead := by
  cases p <;> simp only [BusPos.rdy, Option.some.injEq, reduceCtorEq] at h <;> subst h <;> rfl

theorem BusPos.inRead_byte {p q : BusPos} (h : p.byte = some q) : q.inRead = p.inRead := by
  cases p <;> simp only [BusPos.byte, Option.some.injEq, reduceCtorEq] at h <;> subst h <;> rfl

/-- A word that is neither a preamble nor a filler goes out in no read. -/
theorem BusPos.act_x16 {o : Word} {p q : BusPos} (h : p.act (.x16 o) = some q) :
    p.word o = some q ∧ p ≠ .openedRdy ∧ p ≠ .rdRdy ∧ q.inRead = p.inRead := by
  simp only [BusPos.act] at h
  split at h
  · cases h
  next hp =>
  rw [not_or] at hp
  refine ⟨h, hp.1, hp.2, ?_⟩
  cases p <;> simp only [BusPos.word, Option.some.injEq, reduceCtorEq] at h <;> first | (subst h; rfl) | simp at hp

/-- An act that goes on. -/
theorem perform_go {a : Act} {s t : State} (h : perform a s = .go t) : GoesOn a s t := by
  cases a <;> simp only [perform, Progress.go.injEq, reduceCtorEq] at h
  case csOn =>
    subst h
    refine ⟨rfl, rfl, rfl, rfl, rfl, rfl, rfl, rfl, rfl, rfl, rfl, rfl, ⟨.cs1, rfl, fun p q h => ⟨h, fun ws hw => ?_⟩⟩,
      fun p q h _ => ?_, rfl, .inr ⟨rfl, by simp⟩⟩ <;> simp only [BusPos.act] at h <;> split at h <;> cases h
    · exact hw.imp_right fun h => ⟨h.1, rfl⟩
    · rfl
  case rdOn =>
    subst h
    refine ⟨rfl, rfl, rfl, rfl, rfl, rfl, rfl, rfl, rfl, rfl, rfl, rfl, ⟨.cs1, rfl, fun p q h => ⟨h, fun ws hw => ?_⟩⟩,
      fun p q h _ => ?_, rfl, .inr ⟨rfl, by simp⟩⟩ <;> simp only [BusPos.act] at h <;> split at h <;> cases h
    · exact .inr ⟨rfl, rfl⟩
    · rfl
  case csOff =>
    subst h
    refine ⟨rfl, rfl, rfl, rfl, rfl, rfl, rfl, rfl, rfl, rfl, rfl, rfl, ⟨.cs0, rfl, fun p q h => ⟨h, fun ws hw => ?_⟩⟩,
      fun p q h _ => ?_, rfl, .inr ⟨rfl, by simp⟩⟩ <;> simp only [BusPos.act] at h <;> split at h <;> cases h
    · exact hw.imp_right fun h => ⟨h.1, rfl⟩
    · rfl
  case ready =>
    rcases waitReady_cases { s with wcount := 0 } with ⟨rest, hw⟩ | ⟨wc, hw⟩ | ⟨_, rest, wc, hw⟩ <;> rw [hw] at h <;>
      cases h
    exact ⟨rfl, rfl, rfl, rfl, rfl, rfl, rfl, rfl, rfl, rfl, rfl, rfl,
      ⟨.rdy, rfl, fun p q h => ⟨h, fun ws hw => hw.imp_right fun h' => ⟨h'.1, (BusPos.inRead_rdy h).trans h'.2⟩⟩⟩,
      fun p q h hc => hc.trans (BusPos.inside_rdy h).symm, rfl, .inl rfl⟩
  case wait =>
    rcases waitReady_cases s with ⟨rest, hw⟩ | ⟨wc, hw⟩ | ⟨_, rest, wc, hw⟩ <;> rw [hw] at h <;> cases h
    exact ⟨rfl, rfl, rfl, rfl, rfl, rfl, rfl, rfl, rfl, rfl, rfl, rfl,
      ⟨.rdy, rfl, fun p q h => ⟨h, fun ws hw => hw.imp_right fun h' => ⟨h'.1, (BusPos.inRead_rdy h).trans h'.2⟩⟩⟩,
      fun p q h hc => hc.trans (BusPos.inside_rdy h).symm, rfl, .inl rfl⟩
  case pre r =>
    subst h
    refine ⟨?_, ?_, ?_, ?_, ?_, ?_, ?_, ?_, ?_, ?_, ?_, ?_, ⟨.x16 (preambleWord r) (misoWordAt s 0), ?_, ?_⟩, ?_, ?_, ?_⟩
    case refine_14 =>
      intro p q h
      simp only [BusPos.act] at h
      split at h
      next hp =>
        subst hp
        refine ⟨h, fun ws hw => ?_⟩
        cases r <;> simp only [xferPreamble, xfer16_eq, nextWord_eq]
        case rd => exact .inl (by simp [BusPos.readWords])
        all_goals
          simp only [BusPos.word, preambleWord, reduceIte, BitVec.reduceEq, Option.some.injEq] at h
          subst h
          exact hw.imp (fun h => by simpa [BusPos.readWords, preambleWord, afterWire] using h) fun h => ⟨h.1, rfl⟩
      · cases h
    case refine_15 =>
      intro p q h hc
      simp only [BusPos.act] at h
      split at h
      · rw [BusPos.inside_word h, ← hc]
        cases r <;> simp only [xferPreamble, xfer16_eq, afterWire]
      · cases h
    all_goals cases r <;> simp [xferPreamble, xfer16_eq, received, nextWord_eq] <;> exact misoWordAt_congr rfl rfl 0
  case x16 o =>
    subst h
    rw [xfer16_eq]
    refine ⟨rfl, rfl, rfl, rfl, rfl, rfl, rfl, rfl, rfl, rfl, rfl, rfl, ⟨.x16 o (misoWordAt s 0), rfl, fun p q h => ?_⟩,
      fun p q h hc => hc.trans (BusPos.inside_word (BusPos.act_x16 h).1).symm, rfl, .inr ⟨rfl, by simp⟩⟩
    obtain ⟨h, h1, h2, h3⟩ := BusPos.act_x16 h
    exact ⟨h, fun ws hw => hw.imp (fun h => by simpa [BusPos.readWords, h1, h2] using h) fun h => ⟨h.1, h3.trans h.2⟩⟩
  case fill =>
    subst h
    rw [xfer16_eq]
    refine ⟨rfl, rfl, rfl, rfl, rfl, rfl, rfl, rfl, rfl, rfl, rfl, rfl, ⟨.x16 0x0000 (misoWordAt s 0), rfl, fun p q h => ?_⟩,
      fun p q h hc => ?_, by simp [received, afterWire], .inr ⟨rfl, by simp⟩⟩ <;>
      simp only [BusPos.act] at h <;> split at h <;> try contradiction
    next hp =>
      subst hp
      refine ⟨h, fun ws hw => .inl ?_⟩
      rcases hw with hw | ⟨_, hw⟩
      · simp [BusPos.readWords, hw, nextWord_eq]
      · simp [BusPos.inRead] at hw
    next hp => exact hc.trans (BusPos.inside_word h).symm
  case x8 o =>
    subst h
    rw [xfer8_eq]
    exact ⟨rfl, rfl, rfl, rfl, rfl, rfl, rfl, rfl, rfl, rfl, rfl, rfl,
      ⟨.x8 o (misoByteAt s 0), rfl, fun p q h => ⟨h, fun ws hw => hw.imp_right fun h' => ⟨h'.1, (BusPos.inRead_byte h).trans h'.2⟩⟩⟩,
      fun p q h hc => hc.trans (BusPos.inside_byte h).symm, rfl, .inr ⟨rfl, by simp⟩⟩

/-- An act that holds is a ready-wait, and it has used up the queued samples. -/
theorem perform_hold {a : Act} {s t : State} (h : perform a s = .hold t) :
    (a = .ready ∨ a = .wait) ∧ ∃ wc, t = { s with hrdyIn := [], wcount := wc } := by
  cases a <;> simp only [perform, reduceCtorEq] at h
  case ready =>
    rcases waitReady_cases { s with wcount := 0 } with ⟨rest, hw⟩ | ⟨wc, hw⟩ | ⟨_, rest, wc, hw⟩ <;> rw [hw] at h <;> cases h
    exact ⟨.inl rfl, wc, rfl⟩
  case wait =>
    rcases waitReady_cases s with ⟨rest, hw⟩ | ⟨wc, hw⟩ | ⟨_, rest, wc, hw⟩ <;> rw [hw] at h <;> cases h
    exact ⟨.inr rfl, wc, rfl⟩

/-- An act after which the program does not go on is its end, or a ready-wait that times out (R101, R218 b). -/
theorem perform_ended {a : Act} {s t : State} (h : perform a s = .ended t) :
    (∃ f, a = .done f ∧ t = finish f s) ∨
    ((a = .ready ∨ a = .wait) ∧ s.readyTimeout ≠ none ∧
      ∃ rest wc, t = raiseError .timeout { s with hrdyIn := rest, wcount := wc }) := by
  cases a <;> simp only [perform, Progress.ended.injEq, reduceCtorEq] at h
  case ready =>
    rcases waitReady_cases { s with wcount := 0 } with ⟨rest, hw⟩ | ⟨wc, hw⟩ | ⟨hn, rest, wc, hw⟩ <;> rw [hw] at h <;> cases h
    exact .inr ⟨.inl rfl, hn, rest, wc, rfl⟩
  case wait =>
    rcases waitReady_cases s with ⟨rest, hw⟩ | ⟨wc, hw⟩ | ⟨hn, rest, wc, hw⟩ <;> rw [hw] at h <;> cases h
    exact .inr ⟨.inr rfl, hn, rest, wc, rfl⟩
  case done f => exact .inl ⟨f, rfl, h.symm⟩

/-! ### Runs -/

@[simp] theorem run_nil (later : List Act) (s : State) : run [] later s = { s with todo := later } := rfl

/-- One act of a run, `rst` not asserted. -/
theorem run_cons {s : State} (h : s.rstIn = []) (a : Act) (now later : List Act) :
    run (a :: now) later s = match perform a s with
      | .go t => run now later t
      | .hold t => { t with todo := .wait :: (now ++ later) }
      | .ended t => t := by
  rw [run, rstAsserted_of_nil h, takeRst_of_nil h]
  rfl

theorem run_csOn {s : State} (h : s.rstIn = []) (now later : List Act) :
    run (.csOn :: now) later s = run now later { s with cs := true, trace := s.trace ++ [.cs1] } := by
  rw [run_cons h]; rfl

theorem run_startAct {s : State} (h : s.rstIn = []) (p : Preamble) (now later : List Act) :
    run (startAct p :: now) later s =
      run now later { s with cs := true, rx := if p = .rd then [] else s.rx, trace := s.trace ++ [.cs1] } := by
  cases p <;> rw [startAct, run_cons h] <;> rfl

theorem run_csOff {s : State} (h : s.rstIn = []) (now later : List Act) :
    run (.csOff :: now) later s = run now later { s with cs := false, trace := s.trace ++ [.cs0] } := by
  rw [run_cons h]; rfl

theorem run_done {s : State} (h : s.rstIn = []) (f : Finish) (now later : List Act) :
    run (.done f :: now) later s = finish f s := by
  rw [run_cons h]; rfl

theorem run_x16 {s : State} (h : s.rstIn = []) (o : Word) (now later : List Act) :
    run (.x16 o :: now) later s =
      run now later { afterWire s.hrdyIn 2 s with trace := s.trace ++ [.x16 o (misoWordAt s 0)] } := by
  rw [run_cons h, ← xfer16_eq]; rfl

theorem run_x8 {s : State} (h : s.rstIn = []) (o : Byte) (now later : List Act) :
    run (.x8 o :: now) later s =
      run now later { afterWire s.hrdyIn 1 s with trace := s.trace ++ [.x8 o (misoByteAt s 0)] } := by
  rw [run_cons h, ← xfer8_eq]; rfl

theorem run_fill {s : State} (h : s.rstIn = []) (now later : List Act) :
    run (.fill :: now) later s =
      run now later { afterWire s.hrdyIn 2 s with
        rx := s.rx ++ [misoWordAt s 0], trace := s.trace ++ [.x16 0x0000 (misoWordAt s 0)] } := by
  rw [run_cons h]
  simp only [perform, xfer16_eq, nextWord_eq]
  rfl

theorem run_pre {s : State} (h : s.rstIn = []) (p : Preamble) (now later : List Act) :
    run (.pre p :: now) later s =
      run now later { afterWire s.hrdyIn 2 s with
        rx := if p = .rd then [misoWordAt s 0] else s.rx,
        trace := s.trace ++ [.x16 (preambleWord p) (misoWordAt s 0)] } := by
  rw [run_cons h]
  cases p <;> simp only [perform, xferPreamble, xfer16_eq, nextWord_eq] <;> rfl

/-- A ready-wait that sees a 1 in time: `RDY`, and the program goes on (R101). -/
theorem run_ready_pass {s : State} (h : s.rstIn = []) {z : Nat} {rest : List Bool}
    (hq : s.hrdyIn = List.replicate z false ++ true :: rest) (hp : ∀ k, s.readyTimeout = some k → z < k) :
    ∀ now later, run (.ready :: now) later s =
      run now later { s with hrdyIn := rest, wcount := 0, trace := s.trace ++ [.rdy] } := by
  have hs := sampleHrdy_pass s.readyTimeout z rest 0 (by intro k hk; have := hp k hk; omega)
  intro now later
  rw [run_cons h]
  simp only [perform, waitReady, hq, hs]
  rfl

/-- A ready-wait without a timeout that sees only 0 samples: the hold (R101, R218 a). -/
theorem run_ready_hold {s : State} (h : s.rstIn = []) (hq : ∀ b ∈ s.hrdyIn, b = false)
    (hn : s.readyTimeout = none) (now later : List Act) :
    run (.ready :: now) later s = { s with hrdyIn := [], wcount := 0, todo := .wait :: (now ++ later) } := by
  rw [run_cons h]
  simp only [perform, waitReady, hn, sampleHrdy_hold _ 0 hq]

/-- A ready-wait that holds, goes on holding on 0 samples. -/
theorem run_wait_hold {s : State} (h : s.rstIn = []) (hq : ∀ b ∈ s.hrdyIn, b = false)
    (hn : s.readyTimeout = none) (now later : List Act) :
    run (.wait :: now) later s = { s with hrdyIn := [], todo := .wait :: (now ++ later) } := by
  rw [run_cons h]
  simp only [perform, waitReady, hn, sampleHrdy_hold _ s.wcount hq]

end Sys2Proof.Machine
end

