-- ==== Sys2Proof/Laws/PerInstr.lean ====
section
/-! SUPPORT. The families of lemmas that are made per instruction. PortRequest: what encodes a well-formed instruction as a
request is a request the port carries (R71). -/

namespace Sys2Proof.Laws

/-- The encoding of a well-formed instruction, where it is a request, has the payload length its descriptor requires. -/
def PortRequest.Statement (i : Instr) : Prop :=
  i.wellFormed = true → ∀ r, encode i = .request r → r.wellFormed = true

/-- A request without payload. -/
theorem PortRequest.of_plain {i : Instr} {op : BitVec 4} {arg : Word} {len : Nat}
    (h : encode i = .request (plainRequest op arg len [])) (hp : plen (mkDesc op 0 0 arg (BitVec.ofNat 32 len)) = 0) :
    PortRequest.Statement i := by
  intro _ r hr
  rw [h, Fetched.request.injEq] at hr
  subst hr
  simpa [Request.wellFormed, plainRequest] using hp.symm

/-- A SEND_CMD request. -/
theorem PortRequest.of_cmd {i : Instr} {c : Word} (h : encode i = .request (cmdRequest c)) :
    PortRequest.Statement i :=
  PortRequest.of_plain h (by simp [plen])

/-- A request whose payload is counted by LEN32. -/
theorem PortRequest.of_counted {i : Instr} {d : Desc} {p : List Word} (h : encode i = .request ⟨d, p⟩)
    (hd : i.wellFormed = true → plen d = p.length) : PortRequest.Statement i := by
  intro hw r hr
  rw [h, Fetched.request.injEq] at hr
  subst hr
  simp [Request.wellFormed, hd hw]

/-- A count that fits LEN32 is read back. -/
theorem PortRequest.len {n : Nat} (h : fitsLen32 n = true) : (BitVec.ofNat 32 n).toNat = n := by
  simp only [fitsLen32, decide_eq_true_eq] at h
  simp [Nat.mod_eq_of_lt h]

theorem PortRequest.sendCmd (c : Word) : PortRequest.Statement (.sendCmd c) := PortRequest.of_cmd rfl

theorem PortRequest.writeData (ws : List Word) : PortRequest.Statement (.writeData ws) :=
  PortRequest.of_counted rfl fun hw => by simpa [plen] using PortRequest.len hw

theorem PortRequest.writeBytes (bs : List Byte) : PortRequest.Statement (.writeBytes bs) :=
  PortRequest.of_counted rfl fun hw => by simpa [plen] using PortRequest.len hw

theorem PortRequest.readData (n : Nat) : PortRequest.Statement (.readData n) :=
  PortRequest.of_plain rfl (by simp [plen])

theorem PortRequest.writeReg (a v : Word) : PortRequest.Statement (.writeReg a v) :=
  PortRequest.of_counted rfl fun _ => by simp [plen]

theorem PortRequest.readReg (a : Word) : PortRequest.Statement (.readReg a) :=
  PortRequest.of_plain rfl (by simp [plen])

theorem PortRequest.waitDpyReady (a : Word) : PortRequest.Statement (.waitDpyReady a) :=
  PortRequest.of_plain rfl (by simp [plen])

theorem PortRequest.packPixels (d : Depth) (e : Endian) (p : List Word) :
    PortRequest.Statement (.packPixels d e p) :=
  PortRequest.of_counted rfl fun hw => by
    simp only [Instr.wellFormed, Bool.and_eq_true] at hw
    simpa [plen] using PortRequest.len hw.1

theorem PortRequest.decodeDevinfo (ws : List Word) : PortRequest.Statement (.decodeDevinfo ws) :=
  PortRequest.of_counted rfl fun hw => by simpa [plen] using PortRequest.len hw

theorem PortRequest.queryDevinfo : PortRequest.Statement .queryDevinfo :=
  PortRequest.of_plain rfl (by simp [plen])

theorem PortRequest.preambleCmd : PortRequest.Statement .preambleCmd := fun _ _ hr => by cases hr

theorem PortRequest.preambleWr : PortRequest.Statement .preambleWr := fun _ _ hr => by cases hr

theorem PortRequest.preambleRd : PortRequest.Statement .preambleRd := fun _ _ hr => by cases hr

theorem PortRequest.sysRun : PortRequest.Statement .sysRun := PortRequest.of_cmd rfl

theorem PortRequest.standby : PortRequest.Statement .standby := PortRequest.of_cmd rfl

theorem PortRequest.sleep : PortRequest.Statement .sleep := PortRequest.of_cmd rfl

theorem PortRequest.regRd : PortRequest.Statement .regRd := PortRequest.of_cmd rfl

theorem PortRequest.regWr : PortRequest.Statement .regWr := PortRequest.of_cmd rfl

theorem PortRequest.burst12 : PortRequest.Statement .burst12 := PortRequest.of_cmd rfl

theorem PortRequest.burst13 : PortRequest.Statement .burst13 := PortRequest.of_cmd rfl

theorem PortRequest.burst14 : PortRequest.Statement .burst14 := PortRequest.of_cmd rfl

theorem PortRequest.burst15 : PortRequest.Statement .burst15 := PortRequest.of_cmd rfl

theorem PortRequest.ldImg20 : PortRequest.Statement .ldImg20 := PortRequest.of_cmd rfl

theorem PortRequest.ldImg21 : PortRequest.Statement .ldImg21 := PortRequest.of_cmd rfl

theorem PortRequest.ldImg22 : PortRequest.Statement .ldImg22 := PortRequest.of_cmd rfl

theorem PortRequest.ldImg95 : PortRequest.Statement .ldImg95 := PortRequest.of_cmd rfl

theorem PortRequest.dpyArea : PortRequest.Statement .dpyArea := PortRequest.of_cmd rfl

theorem PortRequest.dpyBufArea : PortRequest.Statement .dpyBufArea := PortRequest.of_cmd rfl

theorem PortRequest.powerSequence : PortRequest.Statement .powerSequence := PortRequest.of_cmd rfl

theorem PortRequest.cmdVcom : PortRequest.Statement .cmdVcom := PortRequest.of_cmd rfl

theorem PortRequest.fillRect : PortRequest.Statement .fillRect := PortRequest.of_cmd rfl

theorem PortRequest.cmdTemperature : PortRequest.Statement .cmdTemperature := PortRequest.of_cmd rfl

theorem PortRequest.bppSettings : PortRequest.Statement .bppSettings := PortRequest.of_cmd rfl

theorem PortRequest.getDevInfo : PortRequest.Statement .getDevInfo := PortRequest.of_cmd rfl

end Sys2Proof.Laws
end

