-- ==== Sys2Proof/Laws/Step.lean ====
section
/-! SUPPORT. What `exec`, `run` and `step` can do, said once: the program each request runs, the rule for a run's
invariants, and the inversion of a step. -/

namespace Sys2Proof.Machine

/-! ### The program of a request -/

/-- A request instruction is its program, issued. -/
theorem exec_eq_issue {i : Instr} {p : List Act} (h : requestProgram i = some p) (s : State) :
    exec i s = .next (issue p s) := by
  cases i <;> simp only [requestProgram, Option.some.injEq, reduceCtorEq] at h <;> subst h <;> rfl

/-- A preamble opens its transaction. -/
theorem exec_preamble (p : Preamble) (s : State) : exec (preambleInstr p) s = .next (openTxn p s) := by
  cases p <;> rfl

/-- An instruction with no program is a preamble. -/
theorem preamble_of_no_program {i : Instr} (h : requestProgram i = none) : ∃ p, i = preambleInstr p := by
  cases i <;> simp only [requestProgram, reduceCtorEq] at h
  · exact ⟨.cmd, rfl⟩
  · exact ⟨.wr, rfl⟩
  · exact ⟨.rd, rfl⟩

/-- `exec` always gives a next state: no instruction of the block stops. -/
theorem exec_next (i : Instr) (s : State) : ∃ t, exec i s = .next t := by
  cases i <;> exact ⟨_, rfl⟩

/-! ### The rule of a run -/

/-- What holds of every run: `R` of its result follows, if `I` of the acts left and the state is kept by every act that
goes on, and gives `R` at a hold, at the request's end, at an asserted `rst` and at the end of the acts. -/
theorem run_rule {I : List Act → State → Prop} {R : State → Prop}
    (hgo : ∀ a k s t, I (a :: k) s → rstAsserted s = false → perform a (takeRst s) = .go t → I k t)
    (hhold : ∀ a k s t, I (a :: k) s → rstAsserted s = false → perform a (takeRst s) = .hold t →
      R { t with todo := .wait :: k })
    (hended : ∀ a k s t, I (a :: k) s → rstAsserted s = false → perform a (takeRst s) = .ended t → R t)
    (hreset : ∀ a k s, I (a :: k) s → rstAsserted s = true → R (applyReset (takeRst s)))
    (later : List Act) (hend : ∀ s, I later s → R { s with todo := later }) :
    ∀ (now : List Act) (s : State), I (now ++ later) s → R (run now later s) := by
  intro now
  induction now with
  | nil => intro s h; exact hend s h
  | cons a now ih =>
    intro s h
    rw [run]
    split
    · next hr => exact hreset a _ s h hr
    · next hr =>
      rw [Bool.not_eq_true] at hr
      split
      next t ht => exact ih t (hgo a _ s t h hr ht)
      next t ht => exact hhold a _ s t h hr ht
      next t ht => exact hended a _ s t h hr ht

/-- A run on a state of which every act keeps `P`, as do reset and the change of the micro-state, gives `P`. -/
theorem run_keeps {P : State → Prop}
    (hact : ∀ a s t, P s → (perform a s = .go t ∨ perform a s = .hold t ∨ perform a s = .ended t) → P t)
    (htodo : ∀ s k, P s → P { s with todo := k }) (hrst : ∀ s, P s → P (takeRst s))
    (hreset : ∀ s, P s → P (applyReset s)) (now later : List Act) (s : State) (h : P s) : P (run now later s) :=
  run_rule (I := fun _ s => P s) (R := P)
    (fun a _ s t h _ ht => hact a _ t (hrst s h) (.inl ht))
    (fun a _ s t h _ ht => htodo _ _ (hact a _ t (hrst s h) (.inr (.inl ht))))
    (fun a _ s t h _ ht => hact a _ t (hrst s h) (.inr (.inr ht)))
    (fun _ _ s h _ => hreset _ (hrst s h)) later (fun s h => htodo s later h) now s h

/-- Passing two stretches of acts is passing one and then the other. -/
theorem received_append (a b : List Act) (n : Nat) : received (a ++ b) n = received b (received a n) := by
  induction a generalizing n with
  | nil => rfl
  | cons x a ih =>
    cases x
    case pre p => cases p <;> simp only [List.cons_append, received, ih]
    all_goals simp only [List.cons_append, received, ih]

/-- No request's program starts inside a ready-wait. -/
theorem wait_not_mem_program {i : Instr} {p : List Act} (h : requestProgram i = some p) : Act.wait ∉ p := by
  cases i <;> simp only [requestProgram, reduceCtorEq, Option.some.injEq] at h <;> subst h
  case writeData ws => unfold writeDataProgram; split <;> simp [wrTxn, opening, startAct]
  case writeBytes bs => simp only [writeBytesProgram, wrBTxn, opening, startAct]; split <;> simp
  case readData n => unfold readDataProgram; split <;> simp [rdTxn, opening, startAct]
  all_goals first
    | decide
    | simp [sendCmdProgram, writeRegProgram, readRegProgram, cmdTxn, opening, startAct, wrTxn, readRegTxns, rdTxn,
        pollProgram]

/-! ### The invariant's parts -/

/-- The record and LAST_ERR are all that `ResponsesOk` depends on. -/
theorem ResponsesOk.congr {s t : State} (h : ResponsesOk s) (hr : t.responses = s.responses)
    (hl : t.lastErr = s.lastErr) : ResponsesOk t :=
  ⟨hr ▸ h.data, by rw [hr, hl]; exact h.lastErr⟩

/-- `rx` and the trace are all that `ReadOk` depends on. -/
theorem ReadOk.congr {s t : State} (h : ReadOk s) (hr : t.rx = s.rx) (ht : t.trace = s.trace) : ReadOk t := by
  unfold ReadOk
  rw [hr, ht]
  exact h

/-! ### The inversion of a step -/

/-- The preamble word of a preamble decodes to its row. -/
theorem decodeWire_preamble (p : Preamble) : decodeWire (preambleWord p) = some (preambleInstr p) := by
  cases p <;> decide

/-- Everything a step with a next state can be. -/
theorem step_cases {s t : State} (h : step s = .next t) :
    (rstAsserted s = true ∧ t = applyReset (takeRst s)) ∨
    (rstAsserted s = false ∧ s.phase = .idle ∧ s.port = [] ∧ t = takeRst s) ∨
    (rstAsserted s = false ∧ s.phase = .idle ∧ ∃ r rest program, s.port = r :: rest ∧
      ((∃ i, decodeRequest r = .instr i ∧ requestProgram i = some program) ∨
        (∃ v, decodeRequest r = .violation v) ∧ program = [.done (.fail .illegal)]) ∧
      t = issue program (accept r (takeRst s))) ∨
    (rstAsserted s = false ∧ s.phase = .busy ∧ ∃ p k, s.todo = opening p ++ k ∧
      t = run (opening p) k { takeRst s with todo := k }) ∨
    (rstAsserted s = false ∧ s.phase = .busy ∧ s.todo ≠ [] ∧ (∀ p k, s.todo ≠ opening p ++ k) ∧
      t = resume (takeRst s)) := by
  unfold step at h
  split at h
  · next hr => cases h; exact .inl ⟨hr, rfl⟩
  next hr =>
  have hr : rstAsserted s = false := by simpa using hr
  refine .inr ?_
  unfold stepLive fetch at h
  have hp : (takeRst s).phase = s.phase := rfl
  have hq : (takeRst s).port = s.port := rfl
  have ht : (takeRst s).todo = s.todo := rfl
  rw [hp] at h
  cases hphase : s.phase with
  | idle =>
    simp only [hphase, hq] at h
    cases hport : s.port with
    | nil =>
      simp only [hport, proceed, hp, hphase, Host.Outcome.next.injEq] at h
      exact .inl ⟨hr, rfl, rfl, h.symm⟩
    | cons r rest =>
      simp only [hport, decode] at h
      refine .inr (.inl ⟨hr, rfl, r, rest, ?_⟩)
      split at h
      · next i hi =>
        cases hprog : requestProgram i with
        | none =>
          exfalso
          obtain ⟨p, rfl⟩ := preamble_of_no_program hprog
          unfold decodeRequest checkField at hi
          cases p <;> (simp only [preambleInstr] at hi; revert hi; split <;> try split) <;>
            (try simp) <;> unfold decodeBody checkPlain checkField commandInstr <;> (repeat' split) <;> simp
        | some program =>
          rw [exec_eq_issue hprog] at h
          cases h
          exact ⟨program, rfl, .inl ⟨i, hi, hprog⟩, rfl⟩
      · next v hv =>
        cases h
        exact ⟨_, rfl, .inr ⟨⟨v, hv⟩, rfl⟩, rfl⟩
      · cases h
      · cases h
  | busy =>
    refine .inr (.inr ?_)
    simp only [hphase, ht] at h
    by_cases hop : ∃ p k, s.todo = opening p ++ k
    · obtain ⟨p, k, hk⟩ := hop
      refine .inl ⟨hr, rfl, p, k, hk, ?_⟩
      cases p <;>
        simp only [hk, opening, startAct, List.cons_append, List.nil_append, decode, decodeWire_preamble, exec_preamble]
          at h <;>
        cases h <;> simp [takeUp, openTxn, opening, startAct, hk]
    · refine .inr ⟨hr, rfl, ?_⟩
      have hne : ∀ p k, s.todo ≠ opening p ++ k := fun p k hk => hop ⟨p, k, hk⟩
      split at h
      · simp only [proceed, hp, hphase, ht] at h
        split at h
        · cases h
        · next hempty =>
          cases h
          exact ⟨by intro h0; simp [h0] at hempty, hne, rfl⟩
      · next f hf =>
        split at hf
        · next k hk => exact absurd hk (hne .cmd k)
        · next k hk => exact absurd hk (hne .wr k)
        · next k hk => exact absurd hk (hne .rd k)
        · cases hf

end Sys2Proof.Machine
end

