-- ==== Sys2Proof/Laws/Transactions.lean ====
section
/-! SUPPORT. What the run of each transaction does when every ready-wait passes (R62, R104 to R107, R154): the events
on the trace, the words received, and nothing else. -/

namespace Sys2Proof.Machine

/-- A state in which a program has received `bytes` bytes and left HRDY's queue at `rest`, chip-select at `cs`, its
events on the trace and `rx` as given, outside every ready-wait. -/
def onWire (rest : List Bool) (bytes : Nat) (cs : Bool) (rx : List Word) (events : List Event) (s : State) : State :=
  { afterWire rest bytes s with cs := cs, rx := rx, trace := s.trace ++ events, wcount := 0 }

theorem onWire_onWire (r r' : List Bool) (m n : Nat) (c c' : Bool) (x x' : List Word) (e e' : List Event)
    (s : State) :
    onWire r' n c' x' e' (onWire r m c x e s) = onWire r' (m + n) c' x' (e ++ e') s := by
  simp only [onWire, afterWire, List.drop_drop, List.length_drop, List.append_assoc]
  congr 1
  omega

theorem misoWordAt_onWire (r : List Bool) (n : Nat) (c : Bool) (x : List Word) (e : List Event) (s : State) :
    misoWordAt (onWire r (2 * n) c x e s) = fun k => misoWordAt s (n + k) := by
  funext k
  rw [← misoWordAt_afterWire r n k s]
  exact misoWordAt_congr rfl rfl k

theorem misoByteAt_onWire (r : List Bool) (n : Nat) (c : Bool) (x : List Word) (e : List Event) (s : State) :
    misoByteAt (onWire r n c x e s) = fun k => misoByteAt s (n + k) := by
  funext k
  rw [← misoByteAt_afterWire r n k s]
  exact misoByteAt_congr rfl rfl k

/-- Chip-select released after a program's events. -/
theorem run_csOff_onWire {s : State} (h : s.rstIn = []) (r : List Bool) (n : Nat) (c : Bool) (x : List Word)
    (e : List Event) (now later : List Act) :
    run (.csOff :: now) later (onWire r n c x e s) = run now later (onWire r n false x (e ++ [.cs0]) s) := by
  rw [run_csOff (by exact h)]
  simp [onWire]

@[simp] theorem waits_nil : waits [] = [] := rfl

theorem waits_cons (z : Nat) (zs : List Nat) :
    waits (z :: zs) = List.replicate z false ++ true :: waits zs := by
  simp [waits, List.flatMap_cons]

theorem Patient.head {limit : Option Nat} {z : Nat} {zs : List Nat} (h : Patient limit (z :: zs)) :
    ∀ k, limit = some k → z < k := fun k hk => h k hk z (by simp)

theorem Patient.tail {limit : Option Nat} {z : Nat} {zs : List Nat} (h : Patient limit (z :: zs)) :
    Patient limit zs := fun k hk y hy => h k hk y (by simp [hy])

theorem Patient.left {limit : Option Nat} {xs ys : List Nat} (h : Patient limit (xs ++ ys)) : Patient limit xs :=
  fun k hk y hy => h k hk y (by simp [hy])

theorem Patient.right {limit : Option Nat} {xs ys : List Nat} (h : Patient limit (xs ++ ys)) : Patient limit ys :=
  fun k hk y hy => h k hk y (by simp [hy])

theorem waits_append (xs ys : List Nat) : waits (xs ++ ys) = waits xs ++ waits ys := by
  simp [waits]

section
variable {s : State} {z : Nat} {rest : List Bool}

/-- A ready-wait, then a word: the pair every transaction is made of. -/
theorem run_word (h : s.rstIn = []) (hq : s.hrdyIn = List.replicate z false ++ true :: rest)
    (hp : ∀ k, s.readyTimeout = some k → z < k) (o : Word) :
    ∀ now later, run (.ready :: .x16 o :: now) later s =
      run now later (onWire rest 2 s.cs s.rx [.rdy, .x16 o (misoWordAt s 0)] s) := by
  have hw := run_ready_pass h hq hp
  intro now later
  rw [hw, run_x16 (by exact h)]
  simp [onWire, afterWire, misoWordAt, misoWordFrom, misoByteAt]

/-- A ready-wait, then a filler word kept in `rx` (R107). -/
theorem run_filler (h : s.rstIn = []) (hq : s.hrdyIn = List.replicate z false ++ true :: rest)
    (hp : ∀ k, s.readyTimeout = some k → z < k) :
    ∀ now later, run (.ready :: .fill :: now) later s =
      run now later (onWire rest 2 s.cs (s.rx ++ [misoWordAt s 0]) [.rdy, .x16 0x0000 (misoWordAt s 0)] s) := by
  have hw := run_ready_pass h hq hp
  intro now later
  rw [hw, run_fill (by exact h)]
  simp [onWire, afterWire, misoWordAt, misoWordFrom, misoByteAt]

/-- A transaction's opening (R61). -/
theorem run_opening (h : s.rstIn = []) (hq : s.hrdyIn = List.replicate z false ++ true :: rest)
    (hp : ∀ k, s.readyTimeout = some k → z < k) (p : Preamble) :
    ∀ now later, run (opening p ++ now) later s =
      run now later (onWire rest 2 true (if p = .rd then [misoWordAt s 0] else s.rx)
        [.cs1, .rdy, .x16 (preambleWord p) (misoWordAt s 0)] s) := by
  have hw := run_ready_pass (s := { s with
    cs := true, rx := if p = .rd then [] else s.rx, trace := s.trace ++ [.cs1] }) h hq hp
  intro now later
  show run (startAct p :: .ready :: .pre p :: now) later s = _
  rw [run_startAct h, hw, run_pre (by exact h)]
  cases p <;> simp [onWire, afterWire, misoWordAt, misoWordFrom, misoByteAt]

end

/-- Data words, one ready-wait before each (R105). -/
theorem run_words (ws : List Word) (zs : List Nat) (rest : List Bool) (s : State) (h : s.rstIn = []) (hc : s.wcount = 0)
    (hl : zs.length = ws.length) (hq : s.hrdyIn = waits zs ++ rest) (hp : Patient s.readyTimeout zs) :
    ∀ now later, run (ws.flatMap (fun w => [.ready, .x16 w]) ++ now) later s =
      run now later (onWire rest (2 * ws.length) s.cs s.rx
        ((List.range ws.length).flatMap fun k => [.rdy, .x16 (ws.getD k 0) (misoWordAt s k)]) s) := by
  intro now later
  induction ws generalizing zs s with
  | nil =>
    obtain rfl := List.length_eq_zero_iff.mp hl
    cases s
    simp_all [onWire, afterWire]
  | cons w ws ih =>
    obtain _ | ⟨z, zs⟩ := zs
    · simp at hl
    rw [waits_cons, List.append_assoc, List.cons_append] at hq
    simp only [List.flatMap_cons, List.cons_append, List.nil_append]
    rw [run_word h hq hp.head w,
      ih zs (onWire (waits zs ++ rest) 2 s.cs s.rx [.rdy, .x16 w (misoWordAt s 0)] s) h rfl (by simpa using hl) rfl
        hp.tail,
      misoWordAt_onWire _ 1, onWire_onWire,
      show 2 * (w :: ws).length = 2 + 2 * ws.length by simp; omega, List.length_cons, List.range_succ_eq_map]
    simp [List.flatMap_map, onWire, afterWire, Nat.add_comm 1]

/-- `CmdTxn(c)` (R62, R104). -/
theorem run_cmdTxn (c : Word) (zs : List Nat) (rest : List Bool) (s : State) (h : s.rstIn = [])
    (hl : zs.length = 2) (hq : s.hrdyIn = waits zs ++ rest) (hp : Patient s.readyTimeout zs) :
    ∀ now later, run (cmdTxn c ++ now) later s =
      run now later (onWire rest 4 false s.rx (cmdEvents (misoWordAt s) c) s) := by
  obtain ⟨z0, z1, rfl⟩ : ∃ z0 z1, zs = [z0, z1] := List.length_eq_two.mp hl
  rw [waits_cons, List.append_assoc, List.cons_append] at hq
  have h1 := run_opening h hq hp.head .cmd
  have h2 := run_word (s := onWire (waits [z1] ++ rest) 2 true s.rx
    [.cs1, .rdy, .x16 (preambleWord .cmd) (misoWordAt s 0)] s) (z := z1) (rest := rest) h
    (by simp [waits_cons, onWire, afterWire]) (by exact hp.tail.head) c
  intro now later
  show run (opening .cmd ++ (.ready :: .x16 c :: .csOff :: now)) later s = _
  rw [h1]
  simp only [reduceCtorEq, if_false]
  rw [h2, misoWordAt_onWire _ 1, onWire_onWire, run_csOff_onWire h]
  rfl

/-- `WrTxn(ws)` (R62, R105). -/
theorem run_wrTxn (ws : List Word) (zs : List Nat) (rest : List Bool) (s : State)
    (h : s.rstIn = []) (hl : zs.length = ws.length + 1) (hq : s.hrdyIn = waits zs ++ rest)
    (hp : Patient s.readyTimeout zs) :
    ∀ now later, run (wrTxn ws ++ now) later s =
      run now later (onWire rest (2 * (ws.length + 1)) false s.rx (wrEvents (misoWordAt s) ws) s) := by
  obtain _ | ⟨z, zs⟩ := zs
  · simp at hl
  rw [waits_cons, List.append_assoc, List.cons_append] at hq
  have h1 := run_opening h hq hp.head .wr
  have h2 := run_words ws zs rest (onWire (waits zs ++ rest) 2 true s.rx
    [.cs1, .rdy, .x16 (preambleWord .wr) (misoWordAt s 0)] s) h rfl (by simpa using hl) rfl (by exact hp.tail)
  intro now later
  simp only [wrTxn, List.append_assoc, List.cons_append, List.nil_append]
  rw [h1]
  simp only [reduceCtorEq, if_false]
  rw [h2, misoWordAt_onWire _ 1, onWire_onWire, run_csOff_onWire h]
  simp [wrEvents, preambleWord, onWire, afterWire, Nat.mul_add, Nat.add_comm]

/-- Filler words, one ready-wait before each, every received word kept (R107). -/
theorem run_fillers (n : Nat) (zs : List Nat) (rest : List Bool) (s : State) (h : s.rstIn = [])
    (hl : zs.length = n + 1) (hq : s.hrdyIn = waits zs ++ rest) (hp : Patient s.readyTimeout zs)
    :
    ∀ now later, run ((List.replicate (n + 1) [Act.ready, Act.fill]).flatten ++ now) later s =
      run now later (onWire rest (2 * (n + 1)) s.cs (s.rx ++ (List.range (n + 1)).map (misoWordAt s))
        ((List.range (n + 1)).flatMap fun k => [.rdy, .x16 0x0000 (misoWordAt s k)]) s) := by
  induction n generalizing zs s with
  | zero =>
    obtain ⟨z, rfl⟩ : ∃ z, zs = [z] := List.length_eq_one_iff.mp hl
    rw [waits_cons, List.append_assoc, List.cons_append] at hq
    have h1 := run_filler h hq hp.head
    intro now later; simpa [List.range_succ_eq_map] using h1 now later
  | succ n ih =>
    obtain _ | ⟨z, zs⟩ := zs
    · simp at hl
    rw [waits_cons, List.append_assoc, List.cons_append] at hq
    have h1 := run_filler h hq hp.head
    have h2 := ih zs (onWire (waits zs ++ rest) 2 s.cs (s.rx ++ [misoWordAt s 0])
      [.rdy, .x16 0x0000 (misoWordAt s 0)] s) (by exact h) (by simpa using hl) rfl (by exact hp.tail)
    intro now later
    rw [List.replicate_succ, List.flatten_cons]
    simp only [List.cons_append, List.nil_append]
    rw [h1, h2, misoWordAt_onWire _ 1, onWire_onWire, List.range_succ_eq_map (n := n + 1),
      show 2 * (n + 1 + 1) = 2 + 2 * (n + 1) by omega]
    simp [List.flatMap_map, Function.comp_def, onWire, afterWire, Nat.add_comm 1]

/-- `RdTxn(N)` (R62, R107): N + 2 raw words in `rx`. -/
theorem run_rdTxn (n : Nat) (zs : List Nat) (rest : List Bool) (s : State)
    (h : s.rstIn = []) (hl : zs.length = n + 2) (hq : s.hrdyIn = waits zs ++ rest)
    (hp : Patient s.readyTimeout zs) :
    ∀ now later, run (rdTxn n ++ now) later s =
      run now later (onWire rest (2 * (n + 2)) false
        (misoWordAt s 0 :: misoWordAt s 1 :: keptWords (misoWordAt s) n) (rdEvents (misoWordAt s) n) s) := by
  obtain _ | ⟨z, zs⟩ := zs
  · simp at hl
  rw [waits_cons, List.append_assoc, List.cons_append] at hq
  have h1 := run_opening h hq hp.head .rd
  have h2 := run_fillers n zs rest (onWire (waits zs ++ rest) 2 true [misoWordAt s 0]
    [.cs1, .rdy, .x16 (preambleWord .rd) (misoWordAt s 0)] s) h (by simpa using hl) rfl (by exact hp.tail)
  intro now later
  simp only [rdTxn, List.append_assoc, List.cons_append, List.nil_append]
  rw [h1]
  simp only [if_true]
  rw [h2, misoWordAt_onWire _ 1, onWire_onWire, run_csOff_onWire h, show 2 * (n + 2) = 2 + 2 * (n + 1) by omega]
  simp [rdEvents, keptWords, preambleWord, onWire, List.range_succ_eq_map (n := n), Function.comp_def, Nat.add_comm 1]

/-- Raw bytes, no ready-wait between them (R106). -/
theorem run_bytes (bs : List Byte) (s : State) (h : s.rstIn = []) (hc : s.wcount = 0) (now later : List Act) :
    run (bs.map Act.x8 ++ now) later s =
      run now later (onWire s.hrdyIn bs.length s.cs s.rx
        ((List.range bs.length).map fun k => .x8 (bs.getD k 0) (misoByteAt s k)) s) := by
  induction bs generalizing s with
  | nil => cases s; simp_all [onWire, afterWire]
  | cons b bs ih =>
    simp only [List.map_cons, List.cons_append]
    rw [run_x8 h, ih _ (by exact h) (by exact hc)]
    have hm : ∀ k, misoByteAt { afterWire s.hrdyIn 1 s with trace := s.trace ++ [.x8 b (misoByteAt s 0)] } k
        = misoByteAt s (k + 1) := by
      intro k
      rw [Nat.add_comm k 1, ← misoByteAt_afterWire s.hrdyIn 1 k s]
      exact misoByteAt_congr rfl rfl k
    simp only [hm]
    congr 1
    simp only [onWire, List.length_cons, List.range_succ_eq_map, List.map_cons, List.map_map, Function.comp_def,
      List.getD_cons_zero, List.getD_cons_succ, List.append_assoc, List.cons_append, List.nil_append]
    simp only [afterWire, List.drop_drop, List.length_drop]
    congr 1
    · congr 1; omega
    · omega

end Sys2Proof.Machine
end

