-- ==== Sys2Proof/Laws/Values.lean ====
section
/-! SUPPORT. The small lemmas of the value functions: R7's rounding, the padded row's length (R173), the packed row's
(R170), the lengths of the device-info lists (R191, R192, R201), and the order in an exchange (R246). -/

namespace Sys2Proof.Machine

/-! ### Rounding and padding (R7, R173) -/

theorem floor4_eq (n : Nat) : floor4 n = 4 * (n / 4) := by
  unfold floor4
  omega

theorem ceil4_eq (n : Nat) : ceil4 n = 4 * ((n + 3) / 4) := by
  simp only [ceil4, floor4_eq]

/-- "lead = x mod 4" (R173). -/
theorem padLead_eq (x : Nat) : padLead x = x % 4 := by
  simp only [padLead, floor4_eq]
  omega

/-- "trail = (4 - ((x + w) mod 4)) mod 4" (R173). -/
theorem padTrail_eq (x w : Nat) : padTrail x w = (4 - (x + w) % 4) % 4 := by
  simp only [padTrail, ceil4_eq]
  omega

/-- A padded row spans columns `floor4(x)` to `ceil4(x + w)` (R173). -/
theorem padRow_length (x w : Nat) (row : List (BitVec 4)) (h : row.length = w) :
    (padRow x w row).length = ceil4 (x + w) - floor4 x := by
  simp only [padRow, List.length_append, List.length_replicate, padLead, padTrail, floor4_eq, ceil4_eq, h]
  omega

theorem pixelRow_length {w h r : Nat} {pixels : List (BitVec 4)} (hp : pixels.length = w * h) (hr : r < h) :
    (pixelRow w pixels r).length = w := by
  have : (r + 1) * w ≤ h * w := Nat.mul_le_mul_right w hr
  rw [Nat.add_one_mul, Nat.mul_comm h w] at this
  simp only [pixelRow, List.length_take, List.length_drop, hp]
  omega

/-- Four pixels to a word (R170). -/
theorem packRow_length (n : Nat) (row : List (BitVec 4)) (h : row.length = 4 * n) : (packRow row).length = n := by
  induction n generalizing row with
  | zero =>
    rw [List.length_eq_zero_iff.mp h]
    rfl
  | succ n ih =>
    match row, h with
    | p0 :: p1 :: p2 :: p3 :: rest, h =>
      simp only [List.length_cons] at h
      simp only [packRow, List.length_cons, ih rest (by omega)]
    | [], h => simp at h
    | [_], h => simp only [List.length_cons, List.length_nil] at h; omega
    | [_, _], h => simp only [List.length_cons, List.length_nil] at h; omega
    | [_, _, _], h => simp only [List.length_cons, List.length_nil] at h; omega

/-- As many words as `h` padded rows have (R178). -/
theorem packWords_length {x w h : Nat} {pixels : List (BitVec 4)} (hp : pixels.length = w * h) :
    (packWords x w h pixels).length = h * wordsPerRow x w := by
  have row : ∀ r ∈ List.range h, (packRow (padRow x w (pixelRow w pixels r))).length = wordsPerRow x w := by
    intro r hr
    refine packRow_length _ _ ?_
    rw [padRow_length _ _ _ (pixelRow_length hp (List.mem_range.mp hr)), wordsPerRow]
    simp only [floor4_eq, ceil4_eq]
    omega
  rw [packWords, List.length_flatMap, List.map_congr_left row]
  simp

theorem wordsToBytes_length (ws : List Word) : (wordsToBytes ws).length = 2 * ws.length := by
  induction ws with
  | nil => rfl
  | cons w ws ih =>
    simp only [wordsToBytes, List.flatMap_cons, List.length_append, List.length_cons, List.length_nil] at *
    omega

/-- What a successful pack has checked and packed (R170, R174). -/
theorem packResult_pack {d : Depth} {e : Endian} {x y w h : Word} {pixels out : List Word} {geom : Word32}
    (hp : packResult d e (x :: y :: w :: h :: pixels) = .pack geom out) :
    (d = .d4 ∧ e = .little) ∧ w ≠ 0 ∧ h ≠ 0 ∧ pixels.length = w.toNat * h.toNat ∧ (∀ p ∈ pixels, p.toNat ≤ 15) ∧
      geom = packGeomOf x.toNat w.toNat ∧
      out = packWords x.toNat w.toNat h.toNat (pixels.map (BitVec.setWidth 4)) := by
  unfold packResult at hp
  simp only [payloadRect, payloadPixels, List.drop_succ_cons, List.drop_zero] at hp
  split at hp
  · cases hp
  next hs =>
  split at hp
  · cases hp
  next hz =>
  split at hp
  · cases hp
  next hl =>
  split at hp
  · cases hp
  next hr =>
  simp only [packSupported, pixelInRange, Bool.not_eq_true', Bool.not_eq_false, Bool.and_eq_true, beq_iff_eq,
    Bool.or_eq_true, not_or, bne_iff_ne, ne_eq, not_not, List.all_eq_true, decide_eq_true_eq] at hs hz hl hr
  cases hp
  exact ⟨hs, hz.1, hz.2, hl, hr, rfl, rfl⟩

/-- A payload in the chip's layout has the bytes of the rectangle's padded rows (R173, R248). -/
theorem preAlignedFor_length {x y w h : Word} {bs : List Byte} (hb : preAlignedFor x y w h bs) :
    bs.length = 2 * (h.toNat * wordsPerRow x.toNat w.toNat) := by
  obtain ⟨pixels, geom, out, hp, rfl⟩ := hb
  obtain ⟨-, -, -, hl, -, -, rfl⟩ := packResult_pack hp
  rw [wordsToBytes_length, packWords_length (by rw [List.length_map, hl])]

/-! ### Device info (R191, R192) -/

theorem versionString_length (ws : List Word) : (versionString ws).length = 2 * ws.length := by
  induction ws with
  | nil => rfl
  | cons w ws ih =>
    simp only [versionString, List.flatMap_cons, List.length_append, List.length_cons, List.length_nil] at *
    omega

theorem devInfo_fw_length {ws : List Word} (h : ws.length = 20) : (devInfo ws).fw.length = 16 := by
  simp [devInfo, versionString_length, h]

theorem devInfo_lut_length {ws : List Word} (h : ws.length = 20) : (devInfo ws).lut.length = 16 := by
  simp [devInfo, versionString_length, h]

/-! ### The HOST's duties (R246) -/

/-- Between two members of one exchange stand only its members (R246). -/
theorem unbroken_between {l a b c : List Nat} {x : Nat} (h : unbroken l = true) (hl : l = a ++ x :: (b ++ x :: c)) :
    ∀ y ∈ b, y = x := by
  subst hl
  induction a with
  | cons d a ih =>
    simp only [List.cons_append, unbroken, Bool.and_eq_true] at h
    exact ih h.2
  | nil =>
    simp only [List.nil_append, unbroken, Bool.and_eq_true, Bool.not_eq_true'] at h
    have h := h.1
    clear * - h
    induction b with
    | nil => simp
    | cons d b ih =>
      rw [List.cons_append, List.dropWhile_cons] at h
      split at h
      · next hd =>
        simp only [List.mem_cons, forall_eq_or_imp]
        exact ⟨by simpa using hd, ih h⟩
      · simp at h

end Sys2Proof.Machine
end

