-- ==== Sys2Proof/Machine/Assembler.lean ====
section
/-! DEFINITION. The assembler syntax of R80: one line of text to the requests it stands for, pseudo-instructions (R81)
included. Log entry 16. -/

namespace Sys2Proof.Machine

/-- A line of R80, its numbers read. -/
inductive AsmLine where
  | cmd (c : Word)
  | wr (ws : List Word)
  | wrb (bs : List Word)
  | rd (n : Word32)
  | regw (a v : Word)
  | regr (a : Word)
  | waitdpy (a : Word)
  | pack (d : Depth) (e : Endian) (payload : List Word)
  | decode (ws : List Word)
  | getdi
  | pseudo (p : Pseudo)
  deriving DecidableEq, Repr

/-- The requests of a line (R80, R81). -/
def AsmLine.requests : AsmLine → List Request
  | .cmd c => [cmdRequest c]
  | .wr ws => [plainRequest 0x2 0 ws.length ws]
  | .wrb bs => [plainRequest 0x3 0 bs.length bs]
  | .rd n => [plainRequest 0x4 0 n.toNat []]
  | .regw a v => [regwRequest a v]
  | .regr a => [plainRequest 0x6 a 0 []]
  | .waitdpy a => [waitDpyRequest a]
  | .pack d e p => [⟨mkDesc 0x8 (depthCode d) (endianBit e) 0 (BitVec.ofNat 32 p.length), p⟩]
  | .decode ws => [plainRequest 0x9 0 ws.length ws]
  | .getdi => [getDiRequest]
  | .pseudo p => p.expand

/-! ### Text -/

/-- A blank. -/
def isBlank (c : Char) : Bool := c == ' ' || c == '\t'

/-- Leading and trailing blanks taken off. -/
def trimBlanks (cs : List Char) : List Char := ((cs.dropWhile isBlank).reverse.dropWhile isBlank).reverse

/-- The line without its comment, "`;` starts a comment" (R80). -/
def stripComment (cs : List Char) : List Char := trimBlanks (cs.takeWhile fun c => c != ';')

/-- The value of a digit in a base. -/
def digitValue (base : Nat) (c : Char) : Option Nat :=
  let v : Nat :=
    if 48 ≤ c.toNat && c.toNat ≤ 57 then c.toNat - 48
    else if 65 ≤ c.toNat && c.toNat ≤ 70 then c.toNat - 55
    else if 97 ≤ c.toNat && c.toNat ≤ 102 then c.toNat - 87
    else base
  if v < base then some v else none

/-- Digits onto a number read so far. -/
def readDigits (base : Nat) : Nat → List Char → Option Nat
  | acc, [] => some acc
  | acc, c :: cs => match digitValue base c with
    | some v => readDigits base (acc * base + v) cs
    | none => none

/-- A number, "decimal or `0x` hexadecimal" (R80). -/
def readNumber : List Char → Option Nat
  | [] => none
  | '0' :: 'x' :: c :: cs => readDigits 16 0 (c :: cs)
  | c :: cs => readDigits 10 0 (c :: cs)

/-- A number that fits `n` bits. -/
def readBits (n : Nat) (cs : List Char) : Option (BitVec n) :=
  match readNumber (trimBlanks cs) with
  | some v => if v < 2 ^ n then some (BitVec.ofNat n v) else none
  | none => none

/-- The pieces of a text between commas. -/
def splitCommas : List Char → List (List Char)
  | [] => [[]]
  | c :: cs => match splitCommas cs with
    | piece :: rest => if c == ',' then [] :: piece :: rest else (c :: piece) :: rest
    | [] => [[c]]

/-- All of a list, if each element is there. -/
def allSome {α : Type} : List (Option α) → Option (List α)
  | [] => some []
  | some a :: rest => (allSome rest).map (a :: ·)
  | none :: _ => none

/-- The operands of a line; none at all for an empty text. -/
def readOperands (cs : List Char) : Option (List Word) :=
  if (trimBlanks cs).isEmpty then some [] else allSome ((splitCommas cs).map (readBits 16))

/-- The `<d><e>` of a PACK line (R80). -/
def readPackSuffix : List Char → Option (Depth × Endian)
  | ['1', 'l', 'e'] => some (.d1, .little)
  | ['1', 'b', 'e'] => some (.d1, .big)
  | ['2', 'l', 'e'] => some (.d2, .little)
  | ['2', 'b', 'e'] => some (.d2, .big)
  | ['3', 'l', 'e'] => some (.d3, .little)
  | ['3', 'b', 'e'] => some (.d3, .big)
  | ['4', 'l', 'e'] => some (.d4, .little)
  | ['4', 'b', 'e'] => some (.d4, .big)
  | ['8', 'l', 'e'] => some (.d8, .little)
  | ['8', 'b', 'e'] => some (.d8, .big)
  | _ => none

/-- A line's operands by its mnemonic (R80, R81). -/
def readLine (mnemonic operands : List Char) : Option AsmLine :=
  match mnemonic, readOperands operands with
  | ['C', 'M', 'D'], some [c] => some (.cmd c)
  | ['W', 'R'], some ws => some (.wr ws)
  | ['W', 'R', 'B'], some bs => some (.wrb bs)
  | ['R', 'D'], _ => (readBits 32 operands).map .rd
  | ['R', 'E', 'G', 'W'], some [a, v] => some (.regw a v)
  | ['R', 'E', 'G', 'R'], some [a] => some (.regr a)
  | ['W', 'A', 'I', 'T', 'D', 'P', 'Y'], some [a] => some (.waitdpy a)
  | 'P' :: 'A' :: 'C' :: 'K' :: '.' :: suffix, some payload =>
    (readPackSuffix suffix).map fun de => .pack de.1 de.2 payload
  | ['D', 'E', 'C', 'O', 'D', 'E'], some ws => some (.decode ws)
  | ['G', 'E', 'T', 'D', 'I'], some [] => some .getdi
  | ['R', 'U', 'N'], some [] => some (.pseudo .run)
  | ['S', 'T', 'A', 'N', 'D', 'B', 'Y'], some [] => some (.pseudo .standby)
  | ['S', 'L', 'E', 'E', 'P'], some [] => some (.pseudo .sleep)
  | ['W', 'A', 'I', 'T', 'L', 'U', 'T'], some [] => some (.pseudo .waitLut)
  | ['P', 'A', 'C', 'K', 'E', 'D', '_', 'O', 'N'], some [] => some (.pseudo .packedOn)
  | ['S', 'E', 'T', 'F', 'B'], _ => (readBits 32 operands).map fun a => .pseudo (.setFb a)
  | _, _ => none

/-- The requests of one line of text: none for a blank or comment line, `none` for a line R80 does not give. -/
def assembleLine (text : List Char) : Option (List Request) :=
  let line := stripComment text
  if line.isEmpty then some []
  else (readLine (line.takeWhile fun c => !isBlank c) (line.dropWhile fun c => !isBlank c)).map AsmLine.requests

end Sys2Proof.Machine
end

