-- ==== Sys2Proof/Tests/Slice0.lean ====
section
/-! SUPPORT. Tests of the model by its author: the ill-formed terms that WellFormed refuses, words written out from the
encodings of 30_encoding.md, vectors of 95_test_vectors.md (each named where it is used), one step each, and a witness for
the hypotheses of every obligation that has some. Expected values are the spec's. -/

namespace Sys2Proof.Tests

open Sys2Proof Sys2Proof.Machine Sys2Proof.Claims

set_option maxRecDepth 20000

/-! ### Small states -/

/-- The state after reset with a request waiting, `w` HRDY samples of 1 and the given MISO bytes queued. -/
def waiting (r : Request) (w : Nat) (miso : List Byte) : State :=
  { State.reset with port := [r], hrdyIn := List.replicate w true, misoIn := miso }

/-- The state after one step, if the step gives one. -/
def next (s : State) : Option State :=
  match step s with
  | .next t => some t
  | .fault _ => none
  | .refused _ => none

/-- What one step puts on MOSI, and the responses after it. -/
def shows (s : State) : Option (List Byte × List Response) :=
  (next s).map fun t => (mosiBytes t.trace, t.responses)

/-- The words of V-DI-1 (95_test_vectors.md W6). -/
def vdi1 : List Word :=
  [0x0430, 0x05A8, 0x0000, 0x0036, 0x4657, 0x5F31, 0x2E32, 0x2E33, 0, 0, 0, 0] ++
  [0x4D36, 0x3431, 0x5F4C, 0x5554, 0, 0, 0, 0]

/-- The response entries of W6. -/
def vdi1Data : List Word :=
  [0x0430, 0x05A8, 0x0000, 0x0036] ++ [0x46, 0x57, 0x5F, 0x31, 0x2E, 0x32, 0x2E, 0x33] ++ List.replicate 8 0 ++
  [0x4D, 0x36, 0x34, 0x31, 0x5F, 0x4C, 0x55, 0x54] ++ List.replicate 8 0

/-- MISO bytes for a GETDI that reads `ws`: the command's two words and the read's raw words 0 and 1 come first. -/
def getDiBytes (ws : List Word) : List Byte := List.replicate 8 0xFF ++ wordsToBytes ws

/-! ### WellFormed: one ill-formed term for each check -/

theorem test_refused_listed_sendCmd : (Instr.sendCmd 0x0302).wellFormed = false := by decide
theorem test_refused_readData_count : (Instr.readData 4294967296).wellFormed = false := by decide
theorem test_refused_pixel_high_byte :
    (Instr.packPixels .d4 .little [0, 0, 1, 1, 0x0100]).wellFormed = false := by decide
theorem test_refused_payload_count : fitsLen32 4294967296 = false := by decide
theorem test_refused_byte_entry : fitsByte 0x0134 = false := by decide
/-- T-F11, T-F4, T-F5, T-F8, T-R10, T-R3, T-P11, T-E1, T-E3: the violations by name. -/
theorem test_violations_by_name :
    decodeRequest ⟨0x0000000200000003, [0x0012, 0x0134]⟩ = .violation .payloadHighByte ∧
    decodeRequest ⟨0x0000000103020001, []⟩ = .violation .badLen32 ∧
    decodeRequest ⟨0x0000000003020031, []⟩ = .violation .bppNonzero ∧
    decodeRequest ⟨0x0000000100010002, [1]⟩ = .violation .arg16Nonzero ∧
    decodeRequest ⟨0x0000000012240087, []⟩ = .violation .endNonzero ∧
    decodeRequest ⟨0x0000000202080005, [0x36, 0]⟩ = .violation .badLen32 ∧
    decodeRequest ⟨0x0000000500000058, [0, 0, 1, 1, 1]⟩ = .violation .bppReserved ∧
    decodeRequest ⟨0x0000000000000000, []⟩ = .violation .reservedOp ∧
    decodeRequest ⟨0x0000000003020101, []⟩ = .violation .rsvdNonzero := by decide
theorem test_refused_length : decodeRequest ⟨0x0000000200000002, [0x1234]⟩ = .badLength := by decide
theorem test_refused_wire_word : decode (.wire 0x6001) = .noRow := by decide

/-! ### Decoding, by words written out from R70, R72, R74 and R61, R63 -/

theorem test_decode_sendCmd : decodeRequest ⟨0x00000000FFFF0001, []⟩ = .instr (.sendCmd 0xFFFF) := by decide
theorem test_decode_writeData :
    decodeRequest ⟨0x0000000200000002, [0x1234, 0xABCD]⟩ = .instr (.writeData [0x1234, 0xABCD]) := by decide
theorem test_decode_writeBytes :
    decodeRequest ⟨0x0000000300000003, [0x12, 0x34, 0x56]⟩ = .instr (.writeBytes [0x12, 0x34, 0x56]) := by decide
theorem test_decode_readData : decodeRequest ⟨0x0000001400000004, []⟩ = .instr (.readData 20) := by decide
theorem test_decode_writeReg :
    decodeRequest ⟨0x0000000102080005, [0x0036]⟩ = .instr (.writeReg 0x0208 0x0036) := by decide
theorem test_decode_readReg : decodeRequest ⟨0x0000000012240006, []⟩ = .instr (.readReg 0x1224) := by decide
theorem test_decode_waitDpyReady : decodeRequest ⟨0x0000000012240007, []⟩ = .instr (.waitDpyReady 0x1224) := by decide
theorem test_decode_packPixels :
    decodeRequest ⟨0x0000000500000038, [0, 9, 1, 1, 7]⟩ = .instr (.packPixels .d4 .little [0, 9, 1, 1, 7]) ∧
    decodeRequest ⟨0x00000000000000B8, []⟩ = .instr (.packPixels .d4 .big []) ∧
    decodeRequest ⟨0x0000000000000008, []⟩ = .instr (.packPixels .d1 .little []) ∧
    decodeRequest ⟨0x0000000000000018, []⟩ = .instr (.packPixels .d2 .little []) ∧
    decodeRequest ⟨0x0000000000000028, []⟩ = .instr (.packPixels .d3 .little []) ∧
    decodeRequest ⟨0x0000000000000048, []⟩ = .instr (.packPixels .d8 .little []) := by decide
theorem test_decode_decodeDevinfo :
    decodeRequest ⟨0x0000000200000009, [7, 8]⟩ = .instr (.decodeDevinfo [7, 8]) := by decide
theorem test_decode_queryDevinfo : decodeRequest ⟨0x000000000000000A, []⟩ = .instr .queryDevinfo := by decide
theorem test_decode_preambles :
    decode (.wire 0x6000) = .instr .preambleCmd ∧ decode (.wire 0x0000) = .instr .preambleWr ∧
    decode (.wire 0x1000) = .instr .preambleRd := by decide

/-- A command opcode's descriptor, its row and its table word (R63). -/
def commandWords : List (Desc × Instr × Nat) :=
  [(0x0000000000010001, .sysRun, 0x0001), (0x0000000000020001, .standby, 0x0002),
   (0x0000000000030001, .sleep, 0x0003), (0x0000000000100001, .regRd, 0x0010),
   (0x0000000000110001, .regWr, 0x0011), (0x0000000000120001, .burst12, 0x0012),
   (0x0000000000130001, .burst13, 0x0013), (0x0000000000140001, .burst14, 0x0014),
   (0x0000000000150001, .burst15, 0x0015), (0x0000000000200001, .ldImg20, 0x0020)] ++
  [(0x0000000000210001, .ldImg21, 0x0021), (0x0000000000220001, .ldImg22, 0x0022),
   (0x0000000000950001, .ldImg95, 0x0095), (0x0000000000340001, .dpyArea, 0x0034),
   (0x0000000000370001, .dpyBufArea, 0x0037), (0x0000000000380001, .powerSequence, 0x0038),
   (0x0000000000390001, .cmdVcom, 0x0039), (0x00000000003A0001, .fillRect, 0x003A),
   (0x0000000000400001, .cmdTemperature, 0x0040), (0x0000000000800001, .bppSettings, 0x0080),
   (0x0000000003020001, .getDevInfo, 0x0302)]

theorem test_decode_commands :
    commandWords.all (fun c => decodeRequest ⟨c.1, []⟩ == .instr c.2.1 && decodeTableWord 16 c.2.2 == some c.2.1)
      = true := by decide

theorem test_encode_words :
    encode (.writeReg 0x0208 0x0036) = .request ⟨0x0000000102080005, [0x0036]⟩ ∧
    encode (.packPixels .d4 .big [1]) = .request ⟨0x00000001000000B8, [1]⟩ ∧
    encode .getDevInfo = .request ⟨0x0000000003020001, []⟩ ∧ encode .preambleRd = .wire 0x1000 := by decide

/-! ### One step per instruction, from the vectors -/

/-- T-F3: "the preamble value is sent as an opcode, not escaped". -/
theorem test_sendCmd_preamble_value :
    shows (waiting ⟨0x0000000060000001, []⟩ 2 [1, 2, 3, 4]) = some ([0x60, 0x00, 0x60, 0x00], [⟨.ok, []⟩]) := by decide
/-- T-F17: samples of 0 are not events. -/
theorem test_sendCmd_trace :
    (next { waiting ⟨0x00000000FFFF0001, []⟩ 0 [0x11, 0x22, 0x33, 0x44] with
        hrdyIn := [false, false, true, true] }).map State.trace
      = some [.cs1, .rdy, .x16 0x6000 0x1122, .rdy, .x16 0xFFFF 0x3344, .cs0] := by decide
/-- W2. -/
theorem test_writeData :
    shows (waiting ⟨0x0000000200000002, [0x1234, 0xABCD]⟩ 3 [0, 0, 0, 0, 0, 0]) =
      some ([0x00, 0x00, 0x12, 0x34, 0xAB, 0xCD], [⟨.ok, []⟩]) := by decide
/-- W2: "No event at all, not even CS1". -/
theorem test_writeData_empty :
    (next (waiting ⟨0x0000000000000002, []⟩ 0 [])).map (fun t => (t.trace, t.responses)) =
      some ([], [⟨.ok, []⟩]) := by decide
/-- W4, T-F12: no wait between the bytes. -/
theorem test_writeBytes :
    (next (waiting ⟨0x0000000300000003, [0x12, 0x34, 0x56]⟩ 2 [9, 8, 7, 6, 5])).map State.trace =
      some [.cs1, .rdy, .x16 0x0000 0x0908, .rdy, .x8 0x12 7, .x8 0x34 6, .x8 0x56 5, .cs0] := by decide
/-- T-F9. -/
theorem test_writeBytes_empty :
    (next (waiting ⟨0x0000000000000003, []⟩ 1 [9, 8])).map State.trace =
      some [.cs1, .rdy, .x16 0x0000 0x0908, .cs0] := by decide
/-- W3. -/
theorem test_readData :
    shows (waiting ⟨0x0000000300000004, []⟩ 5
        (wordsToBytes [0x1111, 0x2222, 0x0A0A, 0x0B0B, 0x0C0C])) =
      some ([0x10, 0, 0, 0, 0, 0, 0, 0, 0, 0], [⟨.ok, [0x0A0A, 0x0B0B, 0x0C0C]⟩]) := by decide
/-- T-F20: no partial data. -/
theorem test_readData_timeout :
    (next { waiting ⟨0x0000000200000004, []⟩ 0 [0, 0, 0, 0] with
        readyTimeout := some 1, hrdyIn := [true, true, false] }).map (fun t => (t.trace, t.responses)) =
      some ([.cs1, .rdy, .x16 0x1000 0, .rdy, .x16 0x0000 0, .cs0], [⟨.timeout, []⟩]) := by decide
/-- W5, T-R1. -/
theorem test_writeReg :
    shows (waiting ⟨0x0000000102080005, [0x0036]⟩ 5 (List.replicate 10 0)) =
      some ([0x60, 0x00, 0x00, 0x11, 0x00, 0x00, 0x02, 0x08, 0x00, 0x36], [⟨.ok, []⟩]) := by decide
/-- T-R4: the command went without its data. -/
theorem test_writeReg_timeout :
    (next { waiting ⟨0x0000000102080005, [0x0036]⟩ 0 [0, 0, 0, 0] with
        readyTimeout := some 1, hrdyIn := [true, true, false] }).map (fun t => (t.trace, t.responses)) =
      some ([.cs1, .rdy, .x16 0x6000 0, .rdy, .x16 0x0011 0, .cs0, .cs1, .cs0], [⟨.timeout, []⟩]) := by decide
/-- W5. -/
theorem test_readReg :
    shows (waiting ⟨0x0000000012240006, []⟩ 7 (List.replicate 12 0x77 ++ [0xBE, 0xEF])) =
      some ([0x60, 0x00, 0x00, 0x10, 0x00, 0x00, 0x12, 0x24, 0x10, 0x00, 0x00, 0x00, 0x00, 0x00],
        [⟨.ok, [0xBEEF]⟩]) := by decide
/-- T-R7. -/
theorem test_waitDpyReady_ready :
    (next (waiting ⟨0x0000000012240007, []⟩ 7 (List.replicate 12 0x77 ++ [0, 0]))).map
      (fun t => ((transactions t.trace).length, t.responses)) = some (3, [⟨.ok, []⟩]) := by decide
/-- T-R9, one poll: STATUS.BUSY = 1, chip-select 0, no response. -/
theorem test_waitDpyReady_polls_again :
    (next (waiting ⟨0x0000000012240007, []⟩ 7 (List.replicate 12 0x77 ++ [0x80, 0]))).map
      (fun t => (t.responses, statusWord false t, t.todo == pollProgram 0x1224)) = some ([], 0x01, true) := by decide
/-- R31, R107: a poll keeps no word of the one before it, and a read starts with none. -/
theorem test_rx_of_current_read :
    (next (waiting ⟨0x0000000012240007, []⟩ 7 (List.replicate 14 0x77))).map (fun t => (t.rx, t.wcount)) = some ([], 0) ∧
    (next { State.reset with phase := .busy, rx := [5], todo := opening .rd }).map
      (fun t => (t.rx, t.todo)) = some ([], [.wait, .pre .rd]) := by decide
/-- R34: the latch is empty after the response, and full in a hold. -/
theorem test_latch :
    (next (waiting (cmdRequest 1) 2 [])).map State.req = some none ∧
    (next (waiting (cmdRequest 1) 1 [])).map State.req = some (some (cmdRequest 1)) := by decide
/-- T-P5, lead 2 and trail 3. -/
theorem test_packPixels_padding :
    (next (waiting ⟨0x0000000B00000038, [6, 0, 7, 1, 1, 2, 3, 4, 5, 6, 7]⟩ 0 [])).map
      (fun t => (t.responses, t.packGeom, t.trace)) =
      some ([⟨.ok, [0x2100, 0x6543, 0x0007]⟩], 0x00030004, []) := by decide
/-- R170's example, two rows. -/
theorem test_packPixels_rows :
    (next (waiting ⟨0x0000000E00000038, [1, 0, 5, 2, 1, 2, 3, 4, 5, 6, 7, 8, 9, 10]⟩ 0 [])).map
      (fun t => (t.responses, t.packGeom)) =
      some ([⟨.ok, [0x3210, 0x0054, 0x8760, 0x00A9]⟩], 0x00020000) := by decide
/-- W6. -/
theorem test_decodeDevinfo :
    (next (waiting ⟨0x0000001400000009, vdi1⟩ 0 [])).map (fun t => (t.responses, t.diValid, t.trace)) =
      some ([⟨.ok, vdi1Data⟩], false, []) := by decide
/-- W6: "a 19- or 21-word input must fail". -/
theorem test_decodeDevinfo_size :
    (next (waiting ⟨0x0000001300000009, vdi1.take 19⟩ 0 [])).map State.responses = some [⟨.size, []⟩] ∧
    (next (waiting ⟨0x0000001500000009, vdi1 ++ [0]⟩ 0 [])).map State.responses = some [⟨.size, []⟩] := by decide
/-- T-D6. -/
theorem test_queryDevinfo :
    (next (waiting ⟨0x000000000000000A, []⟩ 24 (getDiBytes vdi1))).map
      (fun t => (mosiBytes t.trace, t.responses, statusWord false t, t.di)) =
      some ([0x60, 0x00, 0x03, 0x02, 0x10, 0x00] ++ List.replicate 42 0, [⟨.ok, vdi1Data⟩], 0x02,
        ⟨0x05A80430, 0x00360000, 0x315F5746, 0x332E322E, 0, 0, 0x3134364D, 0x54554C5F, 0, 0⟩) := by decide
/-- T-D7: the height reads zero; the cache stays, DI_VALID does not. -/
theorem test_queryDevinfo_comm :
    (next { waiting ⟨0x000000000000000A, []⟩ 24 (getDiBytes (vdi1.set 1 0)) with
        di := { DiCache.zero with dims := 0x05A80430 }, diValid := true }).map
      (fun t => (t.responses, statusWord false t, t.di.dims)) = some ([⟨.comm, []⟩], 0x10, 0x05A80430) := by decide

/-- T-C1 to T-C6 and the other opcodes: the second word of each command, from its request. -/
theorem test_commands_on_the_wire :
    commandWords.all (fun c =>
      shows (waiting ⟨c.1, []⟩ 2 [0, 0, 0, 0]) ==
        some ([0x60, 0x00, BitVec.ofNat 8 (c.2.2 / 256), BitVec.ofNat 8 (c.2.2 % 256)], [⟨.ok, []⟩])) = true := by
  decide

/-- R61: a transaction's first three events. -/
theorem test_preambles_open :
    (∀ p ∈ [(0x6000, (0x6000 : Word)), (0x0000, 0x0000), (0x1000, 0x1000)],
      (next (State.withFetchWord { State.reset with hrdyIn := [true], misoIn := [0xAA, 0x55] } 16 p.1)).map State.trace
        = some [.cs1, .rdy, .x16 p.2 0xAA55]) := by decide
/-- R107: only the read preamble's raw word is kept. -/
theorem test_preambles_rx :
    (next (State.withFetchWord { State.reset with hrdyIn := [true], misoIn := [0xAA, 0x55] } 16 0x1000)).map State.rx
      = some [0xAA55] ∧
    (next (State.withFetchWord { State.reset with hrdyIn := [true], misoIn := [0xAA, 0x55] } 16 0x6000)).map State.rx
      = some [] := by decide

/-! ### Errors, STATUS, CSRs, reset -/

/-- T-E1: STATUS = 0x14, and no event. -/
theorem test_illegal :
    (next (waiting ⟨0, []⟩ 0 [])).map (fun t => (t.responses, t.trace, statusWord false t)) =
      some ([⟨.illegal, []⟩], [], 0x14) := by decide
/-- T-F18: STATUS = 0x18. -/
theorem test_timeout_status :
    (next { waiting ⟨0x0000000000010001, []⟩ 0 [0, 0] with
        readyTimeout := some 2, hrdyIn := [true, false, false] }).map
      (fun t => (t.trace, t.responses, statusWord false t)) =
      some ([.cs1, .rdy, .x16 0x6000 0, .cs0], [⟨.timeout, []⟩], 0x18) := by decide
/-- T-F19, T-E7: STATUS = 0x21 in the hold. -/
theorem test_hold_status :
    (next { waiting ⟨0x0000000000010001, []⟩ 0 [] with hrdyIn := [false, false] }).map
      (fun t => (t.trace, t.responses, statusWord false t)) = some ([.cs1], [], 0x21) := by decide
/-- T-E8: `rst` in that hold. -/
theorem test_reset_in_hold :
    ((next { waiting ⟨0x0000000000010001, []⟩ 0 [] with hrdyIn := [false] }).bind
      fun t => next { t with rstIn := [true] }).map (fun t => (t.trace, t.responses, statusWord false t, t.req)) =
      some ([.cs1, .cs0], [], 0, none) := by decide
/-- T-P15, T-P17, T-P18: the priority of R215. -/
theorem test_pack_priority :
    (next (waiting ⟨0x0000000500000038, [0, 0, 1, 1, 16]⟩ 0 [])).map State.responses = some [⟨.precond, []⟩] ∧
    (next (waiting ⟨0x0000000300000008, [0, 0, 1]⟩ 0 [])).map State.responses = some [⟨.unimpl, []⟩] ∧
    (next (waiting ⟨0x0000000500000018, [0, 0, 1, 1, 0x0100]⟩ 0 [])).map State.responses = some [⟨.illegal, []⟩] := by
  decide
/-- T-E5, T-E6. -/
theorem test_csr_map :
    readCsr 13 true State.reset = 0 ∧ readCsr 65535 true State.reset = 0 ∧ readCsr 12 true State.reset = 0 ∧
    readCsr 12 true { State.reset with readyTimeout := some 3 } = 1 := by decide
/-- T-D9, T-D10. -/
theorem test_containment :
    let s : State := { State.reset with di := cacheOf (devInfo vdi1), diValid := true }
    contained s ⟨0, 0, 1072, 1448⟩ = true ∧ contained s ⟨1071, 1447, 1, 1⟩ = true ∧
    contained s ⟨1, 0, 1072, 1448⟩ = false ∧ contained s ⟨0, 1448, 1, 1⟩ = false ∧
    contained s ⟨0, 0, 0, 0⟩ = true ∧ contained State.reset ⟨0, 0, 1, 1⟩ = false := by decide
/-- T-D11, T-D12, W9. -/
theorem test_vcom :
    vcomEncode (-1) = .ok 0x0001 ∧ vcomEncode (-65535) = .ok 0xFFFF ∧ vcomEncode (-65536) = .error .precond ∧
    vcomEncode 0 = .error .precond ∧ vcomEncode (-1500) = .ok 0x05DC ∧ vcomDecode 0x05DC = -1500 := by
  refine ⟨rfl, rfl, rfl, rfl, rfl, rfl⟩
/-- T-D13. -/
theorem test_temperature :
    tempDecode .measuredFirst 0x0019 0x001E = (0x0019, 0x001E) ∧
    tempDecode .forcedFirst 0x0019 0x001E = (0x001E, 0x0019) := by decide
/-- T-D14. -/
theorem test_display_ready :
    displayReady 0x0000 = true ∧ displayReady 0x0001 = false ∧ displayReady 0x8000 = false ∧
    displayReady 0xFFFF = false := by decide
/-- R175's table and R42's rows. -/
theorem test_small_tables :
    [Depth.d1, .d2, .d3, .d4, .d8].map pixelsPerByte = [8, 4, 2, 2, 1] ∧
    regBlockOf 0x1224 = .dispCtrl ∧ regBlockOf 0x0208 = .memoryConv ∧ regBlockOf 0x0004 = .system ∧
    regBlockOf 0xFFFF = .usb := by decide
/-- R103, D8: bits leave most significant first. -/
theorem test_bit_order :
    mosiBits [.x8 0x81 0, .x16 0x0100 0] =
      [true, false, false, false, false, false, false, true] ++ [false, false, false, false, false, false, false, true]
        ++ List.replicate 8 false := by decide
/-- R80: the lines of 95_test_vectors.md, and texts R80 does not give. -/
theorem test_assembler :
    assembleLine "CMD 0x0302 ; get".toList = some [⟨0x0000000003020001, []⟩] ∧
    assembleLine "WR 0x1234, 0xABCD".toList = some [⟨0x0000000200000002, [0x1234, 0xABCD]⟩] ∧
    assembleLine "WR".toList = some [⟨0x0000000000000002, []⟩] ∧
    assembleLine "RD 20".toList = some [⟨0x0000001400000004, []⟩] ∧
    assembleLine "REGW 0x0208, 0x0036".toList = some [⟨0x0000000102080005, [0x0036]⟩] ∧
    assembleLine "PACK.4be 0, 0, 1, 1, 1".toList = some [⟨0x00000005000000B8, [0, 0, 1, 1, 1]⟩] ∧
    assembleLine "SLEEP".toList = some [⟨0x0000000000030001, []⟩] ∧
    assembleLine "; nothing".toList = some [] ∧ assembleLine "REGW 1".toList = none := by decide
/-- R158: a render before any wait, after a completed one, after one that timed out, after one that a reset abandoned,
and a second render after one wait. -/
theorem test_render_order :
    let wait (o : Option Status) : Taken := ⟨waitDpyRequest 0x1224, o, [.cs1, .cs0]⟩
    let render : Taken := ⟨cmdRequest 0x0034, some .ok, [.cs1, .cs0]⟩
    rendersOrdered 0x1224 false [render] = false ∧
    rendersOrdered 0x1224 false [wait (some .ok), render] = true ∧
    rendersOrdered 0x1224 false [wait (some .timeout), render] = false ∧
    rendersOrdered 0x1224 false [wait none, render] = false ∧
    rendersOrdered 0x1224 false [wait (some .ok), render, render] = false := by decide
/-- R158 on a step: a wait that ends in E_TIMEOUT does not count, one that a reset abandons neither. The bus activity
of each: the CS0 of a timeout (R212), of a reset (R240), and an E_ILLEGAL request's none (R216). -/
theorem test_history :
    history 1 { waiting (waitDpyRequest 0x1224) 0 [] with readyTimeout := some 1, hrdyIn := [false] } =
      [⟨waitDpyRequest 0x1224, some .timeout, [.cs1, .cs0]⟩] ∧
    history 1 { waiting (waitDpyRequest 0x1224) 0 [] with rstIn := [false, false, true] } =
      [⟨waitDpyRequest 0x1224, none, [.cs1, .cs0]⟩] ∧
    (history 1 (waiting (waitDpyRequest 0x1224) 7 (List.replicate 14 0))).map Taken.outcome = [some .ok] ∧
    history 1 (waiting (cmdRequest 0x0034) 0 []) = [⟨cmdRequest 0x0034, none, [.cs1]⟩] ∧
    history 1 (waiting ⟨0x0000000000010101, []⟩ 0 []) = [⟨⟨0x0000000000010101, []⟩, some .illegal, []⟩] := by decide
/-- R246: another exchange's activity between two members of the first, an exchange come back to after an unbroken pair
of its own, and an E_ILLEGAL request, which has no bus activity (R216), between two members. -/
theorem test_adjacent :
    let busy : Taken := ⟨cmdRequest 0x0010, some .ok, [.cs1, .cs0]⟩
    let illegal : Taken := ⟨⟨0x0000000000010101, []⟩, some .illegal, []⟩
    adjacent [(0, busy), (0, busy), (1, busy)] = true ∧ adjacent [(0, busy), (1, busy), (0, busy)] = false ∧
    adjacent [(0, busy), (1, busy), (0, busy), (2, busy), (2, busy)] = false ∧
    adjacent [(0, busy), (1, illegal), (0, busy)] = true := by decide
/-- R107: the words of the last READ transaction, its preamble's among them, across a write that follows it. -/
theorem test_lastRead :
    lastRead (([.cs1, .rdy, .x16 0x1000 7, .rdy, .x16 0 8, .rdy, .x16 0 9, .cs0] : List Event) ++
      [.cs1, .rdy, .x16 0x0000 3, .rdy, .x16 5 4, .cs0]) = [7, 8, 9] ∧
    lastRead (([.cs1, .rdy, .x16 0x1000 7, .rdy, .x16 0 8, .cs0] : List Event) ++ [.cs1, .rdy, .x16 0x1000 1]) = [1] := by
  decide
/-- R248: W7's output, high byte first; an odd number of bytes, and half of a padded row, are not in the layout. -/
theorem test_preAligned :
    preAlignedFor 1 0 5 2 [0x32, 0x10, 0x00, 0x54, 0x87, 0x60, 0x00, 0xA9] ∧ ¬ preAlignedFor 0 0 4 1 [0x32, 0x10, 0x00] ∧
      ¬ preAlignedFor 1 0 5 1 [0x32, 0x10] := by
  refine ⟨⟨[1, 2, 3, 4, 5, 6, 7, 8, 9, 10], _, _, rfl, by decide⟩, fun h => ?_, fun h => ?_⟩ <;>
    exact absurd (preAlignedFor_length h) (by decide)

/-! ### Witnesses: the hypotheses of each obligation, met together -/

/-- Every ready-wait sees `1` at once. -/
def prompt (n : Nat) (miso : List Byte) : State :=
  { State.reset with hrdyIn := List.replicate n true ++ [false], misoIn := miso }

theorem patient_none (zs : List Nat) : Patient none zs := fun _ h => by cases h

/-- A state whose HRDY answers `n` waits at once satisfies the hypothesis of the completion statements. -/
theorem prompt_answers (n : Nat) (miso : List Byte) :
    HrdyAnswers n (List.replicate n 0) [false] (prompt n miso) where
  noReset := rfl
  count := by simp
  samples := by
    have h : List.replicate n true = waits (List.replicate n 0) := by
      induction n with
      | zero => rfl
      | succ n ih => rw [List.replicate_succ, ih]; rfl
    rw [prompt, h]
  inTime := patient_none _

/-- A state that meets it with samples of 0 below a configured timeout. -/
theorem witness_HrdyAnswers_timeout :
    HrdyAnswers 2 [0, 2] [true] { State.reset with
      readyTimeout := some 3, hrdyIn := [true, false, false, true, true] } where
  noReset := rfl
  count := rfl
  samples := rfl
  inTime := by
    intro k hk z hz
    cases hk
    simp only [List.mem_cons, List.not_mem_nil, or_false] at hz
    omega

/-- A request waiting: the invariant holds, the port is well-formed, and the step answers. -/
theorem reset_BlockInv (port : List Request) : BlockInv { State.reset with port := port } where
  wire := ⟨.out, rfl, rfl⟩
  phase := ⟨rfl, rfl, rfl, rfl, rfl⟩
  latch := fun h => by cases h
  read := .inl rfl
  count := .inl rfl
  responses := ⟨fun r hr => by simp [State.reset] at hr, .inl rfl⟩

/-- A state in the middle of a transaction. -/
def midway : State :=
  { State.reset with
    phase := .busy, req := some (cmdRequest 0x0302), cs := true, trace := [.cs1]
    todo := [.wait, .pre .cmd, .ready, .x16 0x0302, .csOff, .done (.ok [])], hrdyIn := [false] }

theorem midway_BlockInv : BlockInv midway where
  wire := ⟨.opened, rfl, rfl⟩
  phase := ⟨.opened, rfl, rfl⟩
  latch := fun _ => ⟨cmdRequest 0x0302, [.csOn], [.ready, .pre .cmd, .ready, .x16 0x0302, .csOff, .done (.ok [])], rfl,
    by decide, .inr ⟨_, rfl, rfl⟩, rfl⟩
  read := .inl rfl
  count := .inl rfl
  responses := ⟨fun r hr => by simp [midway, State.reset] at hr, .inl rfl⟩

/-- READ_DATA of one word, held after its preamble: raw word 0 is received. -/
def midread : State :=
  { State.reset with
    phase := .busy, req := some ⟨0x0000000100000004, []⟩, cs := true, trace := [.cs1, .rdy, .x16 0x1000 7], rx := [7]
    todo := [.wait, .fill, .ready, .fill, .csOff, .done .readWords], hrdyIn := [true], misoIn := [0, 8] }

theorem midread_BlockInv : BlockInv midread where
  wire := ⟨.rd, rfl, rfl⟩
  phase := ⟨.rd, rfl, rfl⟩
  latch := fun _ => ⟨⟨0x0000000100000004, []⟩, opening .rd, [.ready, .fill, .ready, .fill, .csOff, .done .readWords], rfl,
    by decide, .inr ⟨_, rfl, rfl⟩, rfl⟩
  read := .inl rfl
  count := .inl rfl
  responses := ⟨fun r hr => by simp [midread, State.reset] at hr, .inl rfl⟩

/-- A WAIT_DPY_READY at the head of its loop: its next poll is another step's. -/
def polling : State :=
  { State.reset with
    phase := .busy, req := some (waitDpyRequest 0x1224), todo := pollProgram 0x1224
    hrdyIn := [false], readyTimeout := some 1 }

theorem polling_BlockInv : BlockInv polling where
  wire := ⟨.out, rfl, rfl⟩
  phase := ⟨.out, rfl, rfl⟩
  latch := fun _ => ⟨waitDpyRequest 0x1224, [], pollProgram 0x1224, rfl, by decide, .inl rfl, rfl⟩
  read := .inl rfl
  count := .inl rfl
  responses := ⟨fun r hr => by simp [polling, State.reset] at hr, .inl rfl⟩

/-- Outside every read, and inside one, where the step receives a word. -/
theorem witness_StepKeepsInvariant :
    (BlockInv midway ∧ (next midway).isSome = true) ∧ BlockInv midread ∧ (next midread).map State.rx = some [7, 8] :=
  ⟨⟨midway_BlockInv, by decide⟩, midread_BlockInv, by decide⟩

theorem witness_InvariantStatesStep :
    BlockInv { State.reset with port := [cmdRequest 1] } ∧ PortOk { State.reset with port := [cmdRequest 1] } := by
  refine ⟨reset_BlockInv _, fun r hr => ?_⟩
  simp only [List.mem_cons, List.not_mem_nil, or_false] at hr
  subst hr
  decide

theorem witness_StepAnswersAtMostOnce : (next (waiting (cmdRequest 1) 2 [0, 0, 0, 0])).isSome = true := by decide

theorem witness_BusyHoldsPort :
    ({ midway with port := [cmdRequest 1] } : State).phase = .busy ∧
      (next { midway with port := [cmdRequest 1] }).isSome = true := by decide

theorem witness_IdleTakesFirstRequest :
    (waiting (cmdRequest 1) 0 []).phase = .idle ∧ (waiting (cmdRequest 1) 0 []).rstIn = [] ∧
      (waiting (cmdRequest 1) 0 []).port = [cmdRequest 1] ∧ (next (waiting (cmdRequest 1) 2 [])).isSome = true := by
  decide

theorem witness_TimeoutParameterFixed : (next { State.reset with readyTimeout := some 3 }).isSome = true := by decide

/-- The ways of a cache: left by another instruction, by a step and by a query that times out, cleared by a reset, filled
and refused by a query whose read's words are those of the trace. -/
theorem witness_CacheWrittenOnlyByQueryOrReset :
    (Instr.decodeDevinfo vdi1 ≠ .queryDevinfo ∧ State.reset.rstIn = [] ∧
      ∃ t, exec (.decodeDevinfo vdi1) State.reset = .next t) ∧
    (BlockInv midway ∧ (next midway).isSome = true) ∧
    BlockInv { State.reset with port := [getDiRequest] } ∧
    (next (waiting getDiRequest 24 (getDiBytes vdi1))).map (fun t => (t.diValid, (lastRead t.trace).drop 2)) =
      some (true, vdi1) ∧
    (next { waiting getDiRequest 24 (getDiBytes (vdi1.set 1 0)) with diValid := true }).map
      (fun t => (t.diValid, (lastRead t.trace).drop 2)) = some (false, vdi1.set 1 0) ∧
    (next { waiting getDiRequest 0 [] with diValid := true, readyTimeout := some 1, hrdyIn := [false] }).map
      (fun t => (t.diValid, t.responses)) = some (true, [⟨.timeout, []⟩]) ∧
    (next { State.reset with di := cacheOf (devInfo vdi1), rstIn := [true] }).map State.di = some DiCache.zero := by
  refine ⟨⟨by simp, rfl, _, rfl⟩, ⟨midway_BlockInv, by decide⟩, reset_BlockInv _, by decide, by decide, by decide, by decide⟩

theorem witness_OnlyPackWritesGeometry :
    ((State.reset.rstIn = [] ∧ ∀ d e p, Instr.queryDevinfo ≠ .packPixels d e p) ∧
      ∃ t, exec .queryDevinfo State.reset = .next t) ∧
    (BlockInv midway ∧ (next midway).map State.packGeom = some 0) ∧
    BlockInv { State.reset with port := [⟨0x0000000500000038, [0, 0, 1, 1, 1]⟩] } ∧
    (next (waiting ⟨0x0000000500000038, [0, 0, 1, 1, 1]⟩ 0 [])).map State.packGeom = some 0x00010000 ∧
    (next { State.reset with packGeom := 5, rstIn := [true] }).map State.packGeom = some 0 := by
  refine ⟨⟨⟨rfl, fun d e p h => by cases h⟩, _, rfl⟩, ⟨midway_BlockInv, by decide⟩, reset_BlockInv _, by decide,
    by decide⟩

theorem witness_StepRunsDecodedInstruction :
    fetch (waiting (cmdRequest 0x1234) 0 []) = some (.request (cmdRequest 0x1234)) ∧
    decode (.request (cmdRequest 0x1234)) = .instr (.sendCmd 0x1234) ∧
    fetch { State.reset with phase := .busy, todo := pollProgram 0 } = some (.wire 0x6000) ∧
    decode (.wire 0x6000) = .instr .preambleCmd ∧ State.reset.rstIn = [] := by decide

theorem witness_ViolationAnswersIllegal :
    (waiting ⟨0, []⟩ 0 []).rstIn = [] ∧ (waiting ⟨0, []⟩ 0 []).phase = .idle ∧ (waiting ⟨0, []⟩ 0 []).cs = false ∧
      (waiting ⟨0, []⟩ 0 []).port = [⟨0, []⟩] ∧ decodeRequest ⟨0, []⟩ = .violation .reservedOp := by decide

/-- A well-formed request for each clause, and one for none, with a value where OP 8 and OP 3 meet others' clauses. -/
theorem witness_ViolationsAreThoseListed :
    [(⟨0x000000000000000B, []⟩ : Request), ⟨0x0000000000000101, []⟩, ⟨0x0000000000000012, []⟩,
     ⟨0x0000000000000084, []⟩, ⟨0x000000000001000A, []⟩, ⟨0x0000000100000006, []⟩, ⟨0x0000000000000005, []⟩,
     ⟨0x0000000000000078, []⟩, ⟨0x0000000100000003, [0x0100]⟩, ⟨0x0000000500000038, [0, 0, 1, 1, 0x0100]⟩].all
      (fun r => r.wellFormed && (match decodeRequest r with
        | .violation _ => true
        | .instr _ => false
        | .badLength => false
        | .noRow => false)) = true ∧
    (⟨0x00000004000000B8, [0x0100, 0x0100, 0x0100, 0x0100]⟩ : Request).wellFormed = true ∧
    decodeRequest ⟨0x00000004000000B8, [0x0100, 0x0100, 0x0100, 0x0100]⟩ =
      .instr (.packPixels .d4 .big [0x0100, 0x0100, 0x0100, 0x0100]) := by decide

theorem witness_IllFormedRequestRefused :
    (waiting ⟨0x0000000200000002, [1]⟩ 0 []).rstIn = [] ∧ (waiting ⟨0x0000000200000002, [1]⟩ 0 []).phase = .idle ∧
      (waiting ⟨0x0000000200000002, [1]⟩ 0 []).port = [⟨0x0000000200000002, [1]⟩] ∧
      [(1 : Word)].length ≠ plen 0x0000000200000002 := by decide

theorem witness_DecodeEncodeRoundTrip :
    (Instr.packPixels .d8 .big [1, 2, 3, 4, 0x00FF]).wellFormed = true ∧ (Instr.sendCmd 0x6000).wellFormed = true ∧
      (Instr.readData 4294967295).wellFormed = true := by decide

theorem witness_EncodeDecodeRoundTrip :
    decodeRequest ⟨0x0000000100050005, [7]⟩ = .instr (.writeReg 5 7) := by decide

theorem witness_SendCmdAnswers : HrdyAnswers 2 [0, 0] [false] (prompt 2 []) := prompt_answers 2 []

theorem witness_CommandRowsAnswer :
    commandRows.length = 21 ∧ HrdyAnswers 2 [0, 0] [false] (prompt 2 []) := ⟨by decide, prompt_answers 2 []⟩

theorem witness_WriteDataAnswers :
    [(0x1234 : Word)] ≠ [] ∧ HrdyAnswers ([(0x1234 : Word)].length + 1) [0, 0] [false] (prompt 2 []) :=
  ⟨by decide, prompt_answers 2 []⟩

theorem witness_ZeroLengthAnswers : State.reset.rstIn = [] ∧ State.reset.cs = false := by decide

theorem witness_WriteBytesAnswers :
    [(0xAB : Byte)] ≠ [] ∧ HrdyAnswers 2 [0, 0] [false] (prompt 2 []) := ⟨by decide, prompt_answers 2 []⟩

theorem witness_WriteBytesEmptyAnswers : HrdyAnswers 1 [0] [false] (prompt 1 []) := prompt_answers 1 []

theorem witness_ReadDataAnswers : 0 < 1 ∧ HrdyAnswers (1 + 2) [0, 0, 0] [false] (prompt 3 []) :=
  ⟨by decide, prompt_answers 3 []⟩

theorem witness_PreamblesOpenTransactions :
    HrdyAnswers 1 [0] [false] { prompt 1 [] with todo := [.fill], rx := [5] } where
  noReset := rfl
  count := rfl
  samples := rfl
  inTime := patient_none _

theorem witness_WriteReceivesAreDiscarded :
    (∃ row ∈ commandRows, Instr.getDevInfo = row.1) ∧ (∃ a v, Instr.writeReg 1 2 = .writeReg a v) ∧
      (∃ c, Instr.sendCmd 3 = .sendCmd c) ∧ (∃ ws, Instr.writeData [4] = .writeData ws) ∧
      ∃ bs, Instr.writeBytes [5] = .writeBytes bs :=
  ⟨⟨(.getDevInfo, 0x0302), by decide, rfl⟩, ⟨1, 2, rfl⟩, ⟨3, rfl⟩, ⟨[4], rfl⟩, ⟨[5], rfl⟩⟩

theorem witness_WriteRegAnswers : HrdyAnswers 5 [0, 0, 0, 0, 0] [false] (prompt 5 []) := prompt_answers 5 []

theorem witness_ReadRegAnswers : HrdyAnswers 7 [0, 0, 0, 0, 0, 0, 0] [false] (prompt 7 []) := prompt_answers 7 []

/-- T-R7 and T-R8: ready at the first poll, and at the second. -/
theorem witness_WaitDpyReadyAnswers :
    (HrdyAnswers 7 (List.replicate 7 0) [false] (prompt 7 (List.replicate 14 0)) ∧
      misoWordAt (prompt 7 (List.replicate 14 0)) 6 = 0) ∧
    (HrdyAnswers (7 * (1 + 1)) (List.replicate 14 0) [false]
        (prompt 14 (List.replicate 14 1 ++ List.replicate 14 0)) ∧
      (∀ j, j < 1 → misoWordAt (prompt 14 (List.replicate 14 1 ++ List.replicate 14 0)) (7 * j + 6) ≠ 0) ∧
      misoWordAt (prompt 14 (List.replicate 14 1 ++ List.replicate 14 0)) (7 * 1 + 6) = 0) := by
  refine ⟨⟨prompt_answers 7 _, by decide⟩, prompt_answers 14 _, fun j hj => ?_, by decide⟩
  obtain rfl : j = 0 := by omega
  decide

theorem witness_WaitDpyReadyPollsAgain :
    HrdyAnswers 7 (List.replicate 7 0) [false] (prompt 7 (List.replicate 14 1)) ∧
      misoWordAt (prompt 7 (List.replicate 14 1)) 6 ≠ 0 := ⟨prompt_answers 7 _, by decide⟩

theorem witness_PollsThatNeverReadZeroNeverRespond :
    HrdyAnswers (7 * (1 + 1)) (List.replicate 14 0) [false] (prompt 14 (List.replicate 28 1)) ∧
      ∀ j, j ≤ 1 → misoWordAt (prompt 14 (List.replicate 28 1)) (7 * j + 6) ≠ 0 := by
  refine ⟨prompt_answers 14 _, fun j hj => ?_⟩
  rcases Nat.le_one_iff_eq_zero_or_eq_one.mp hj with rfl | rfl <;> decide

/-- x at the top of its range, and pixels at both ends of theirs. -/
theorem witness_PackPixelsAnswers :
    State.reset.rstIn = [] ∧ State.reset.cs = false ∧ 0 < (2 : Word).toNat ∧ 0 < (1 : Word).toNat ∧
      [(0 : Word), 15].length = (2 : Word).toNat * (1 : Word).toNat ∧ (∀ p ∈ [(0 : Word), 15], p.toNat ≤ 15) :=
  ⟨rfl, rfl, by decide, by decide, rfl, by simp⟩

theorem witness_PackedLength :
    State.reset.rstIn = [] ∧ State.reset.cs = false ∧ 0 < (1 : Word).toNat ∧ 0 < (1 : Word).toNat ∧
      [(15 : Word)].length = (1 : Word).toNat * (1 : Word).toNat ∧ (∀ p ∈ [(15 : Word)], p.toNat ≤ 15) :=
  ⟨rfl, rfl, by decide, by decide, rfl, by simp⟩

theorem witness_UnsupportedPackingUnimplemented :
    State.reset.rstIn = [] ∧ State.reset.cs = false ∧ ¬ (Depth.d4 = .d4 ∧ Endian.big = .little) ∧
      ¬ (Depth.d1 = .d4 ∧ Endian.little = .little) := by decide

/-- T-P12 to T-P15: a payload for each clause of R174 that meets no other. -/
theorem witness_PackPreconditionsChecked :
    [(0 : Word), 0, 1].length < 4 ∧ ([(0 : Word), 0, 0, 1].getD 2 0).toNat = 0 ∧
      ([(0 : Word), 0, 1, 0].getD 3 0).toNat = 0 ∧ [(0 : Word), 0, 2, 1, 1].length - 4 ≠ 2 * 1 ∧
      (∃ v ∈ [(0 : Word), 0, 1, 1, 16].drop 4, 15 < v.toNat) ∧ State.reset.rstIn = [] ∧ State.reset.cs = false := by
  refine ⟨by decide, by decide, by decide, by decide, ⟨16, by decide, by decide⟩, rfl, rfl⟩

theorem witness_GeometryFields :
    ({ State.reset with packGeom := packGeomOf (65535 : Word).toNat (65535 : Word).toNat } : State).packGeom =
      packGeomOf (65535 : Word).toNat (65535 : Word).toNat := rfl

theorem witness_DecodeDevinfoAnswers : State.reset.rstIn = [] ∧ State.reset.cs = false ∧ vdi1.length = 20 := by decide

theorem witness_DecodeSizeError :
    State.reset.rstIn = [] ∧ State.reset.cs = false ∧ (vdi1.take 19).length ≠ 20 ∧ (vdi1 ++ [0]).length ≠ 20 := by decide

theorem witness_DeviceInfoLayout : vdi1.length = 20 := by decide

theorem witness_CacheHoldsDecodedInfo : vdi1.length = 20 := by decide

theorem witness_QueryDevinfoAnswers :
    HrdyAnswers 24 (List.replicate 24 0) [false] (prompt 24 (getDiBytes vdi1)) ∧
      misoWordAt (prompt 24 (getDiBytes vdi1)) 4 ≠ 0 ∧ misoWordAt (prompt 24 (getDiBytes vdi1)) 5 ≠ 0 :=
  ⟨prompt_answers 24 _, by decide, by decide⟩

theorem witness_QueryCommunicationFailure :
    HrdyAnswers 24 (List.replicate 24 0) [false] (prompt 24 (getDiBytes (vdi1.set 0 0))) ∧
      (misoWordAt (prompt 24 (getDiBytes (vdi1.set 0 0))) 4 = 0 ∧
        misoWordAt (prompt 24 (getDiBytes (vdi1.set 0 0))) 5 ≠ 0) ∧
      (misoWordAt (prompt 24 (getDiBytes (vdi1.set 1 0))) 4 ≠ 0 ∧
        misoWordAt (prompt 24 (getDiBytes (vdi1.set 1 0))) 5 = 0) :=
  ⟨prompt_answers 24 _, by decide, by decide⟩

/-- Two states that differ in the words a query discards. -/
theorem witness_QueryIsIdempotent :
    HrdyAnswers 24 (List.replicate 24 0) [false] (prompt 24 (getDiBytes vdi1)) ∧
      HrdyAnswers 24 (List.replicate 24 0) [false] (prompt 24 (List.replicate 8 0 ++ wordsToBytes vdi1)) ∧
      ∀ k, 4 ≤ k → k < 24 → misoWordAt (prompt 24 (getDiBytes vdi1)) k =
        misoWordAt (prompt 24 (List.replicate 8 0 ++ wordsToBytes vdi1)) k := by
  refine ⟨prompt_answers 24 _, prompt_answers 24 _, fun k h h' => ?_⟩
  interval_cases k <;> decide

theorem witness_NoHrdyHoldsAtFirstWord :
    onBus (.readReg 5) ∧ onBus (.writeData [1]) ∧ onBus (.readData 1) ∧ onBus .getDevInfo ∧ State.reset.rstIn = [] ∧
      State.reset.readyTimeout = none ∧ (∀ b ∈ ({ State.reset with hrdyIn := [false, false] } : State).hrdyIn, b = false) := by
  refine ⟨?_, ?_, ?_, ?_, rfl, rfl, by decide⟩ <;>
    exact ⟨⟨by simp, by simp, by simp⟩, by simp, by simp, fun _ _ _ => by simp, fun _ => by simp⟩

theorem witness_HoldHasNoExit :
    midway.phase = .busy ∧ midway.todo = .wait :: [.pre .cmd, .ready, .x16 0x0302, .csOff, .done (.ok [])] ∧
      midway.rstIn = [] ∧ midway.readyTimeout = none ∧ ∀ b ∈ (supplyHrdy midway).hrdyIn, b = false := by decide

theorem witness_HeldRequestGoesOnWhereItStood :
    isRequest (.sendCmd 0x0001) ∧ State.reset.rstIn = [] ∧ [true] ≠ [] ∧
      (next (waiting ⟨0x0000000000010001, []⟩ 1 [0, 0])).map (fun t => (t.phase, t.todo.head?)) =
        some (.busy, some .wait) := by
  refine ⟨⟨by simp, by simp, by simp⟩, rfl, by decide, by decide⟩

theorem witness_TimeoutEndsTheRequest :
    let s : State := { midway with readyTimeout := some 3, wcount := 1, hrdyIn := [false, false, true] }
    s.phase = .busy ∧ s.todo = .wait :: [.pre .cmd, .ready, .x16 0x0302, .csOff, .done (.ok [])] ∧ s.cs = true ∧
      s.rstIn = [] ∧ s.readyTimeout = some 3 ∧ s.wcount + 2 = 3 ∧ 0 < 2 ∧
      s.hrdyIn = List.replicate 2 false ++ [true] := by decide

theorem witness_EachWaitCountsAnew :
    let s : State := { midway with
      todo := [.ready, .csOff, .done (.ok [])], wcount := 7, readyTimeout := some 1, hrdyIn := [false] }
    s.phase = .busy ∧ s.todo = .ready :: [.csOff, .done (.ok [])] ∧ s.cs = true ∧ s.rstIn = [] ∧
      s.readyTimeout = some 1 ∧ 0 < 1 ∧ s.hrdyIn = List.replicate 1 false ++ [] := by decide

theorem witness_TimeoutAtFirstWord :
    let s : State := { State.reset with readyTimeout := some 2, hrdyIn := [false, false, true] }
    onBus .queryDevinfo ∧ s.rstIn = [] ∧ s.readyTimeout = some 2 ∧ 0 < 2 ∧
      s.hrdyIn = List.replicate 2 false ++ [true] := by
  refine ⟨?_, by decide, by decide, by decide, by decide⟩
  exact ⟨⟨by simp, by simp, by simp⟩, by simp, by simp, fun _ _ _ => by simp, fun _ => by simp⟩

/-- An instruction's own step, a further poll, and a held request that times out. -/
theorem witness_StatusesPerOperation :
    (∃ t, exec (.packPixels .d1 .big []) State.reset = .next t) ∧
    (BlockInv polling ∧ (next polling).map State.responses = some [⟨.timeout, []⟩]) ∧
    BlockInv { midway with readyTimeout := some 1 } ∧
    (next { midway with readyTimeout := some 1 }).map State.responses = some [⟨.timeout, []⟩] := by
  refine ⟨⟨_, rfl⟩, ⟨polling_BlockInv, by decide⟩, ?_, by decide⟩
  obtain ⟨h1, h2, h3, h4, h5, h6⟩ := midway_BlockInv
  exact ⟨h1, h2, h3, h4, h5, ⟨h6.data, h6.lastErr⟩⟩

theorem witness_ResetFromAnyState : ({ midway with rstIn := [true, false] } : State).rstIn = true :: [false] := rfl

/-- A reset after SEND_CMD's first three acts, and one that a held request's next step takes before its second act, or
does not reach. -/
theorem witness_ResetAbandonsRequest :
    let s : State := { State.reset with hrdyIn := [true], rstIn := [false, false, false, true] }
    let program := sendCmdProgram 0x0001
    let u := run (program.take 3) (program.drop 3) (begin { s with rstIn := [] })
    (requestProgram (.sendCmd 0x0001) = some program ∧ 3 < program.length ∧
      s.rstIn = List.replicate 3 false ++ true :: [] ∧ u.todo = program.drop 3 ∧ u.cs = true) ∧
    (next { midway with hrdyIn := [true], rstIn := [false, false, true, false] }).map
      (fun t => (t.phase, t.rstIn)) = some (.idle, [false]) ∧
    (next { midway with rstIn := [false, false, true, false] }).map (fun t => (t.phase, t.rstIn)) =
      some (.busy, [true, false]) := by decide

end Sys2Proof.Tests
end

/-! Requests whose whole program is their end: no act on the bus, so no event and no input of the CHIP taken. -/

namespace Sys2Proof.Machine

/-- A program that only ends its request does so from the request's start. -/
theorem issue_done {s : State} (hrst : s.rstIn = []) (f : Finish) : issue [.done f] s = finish f (begin s) :=
  run_done (s := begin s) hrst f [] []

/-- A response right at a request's start, chip-select released, leaves no event (R211). -/
theorem respond_begin {s : State} (hcs : s.cs = false) (st : Status) (data : List Word) :
    respond st data (begin s) = answered st data [] s := by
  simp [respond, begin, answered, hcs]

/-- A program that only responds OK, run outside every transaction, makes no event (R108, R211). -/
theorem issue_done_ok {s : State} (hrst : s.rstIn = []) (hcs : s.cs = false) (data : List Word) :
    issue [.done (.ok data)] s = answered .ok data [] s :=
  (issue_done hrst (.ok data)).trans (respond_begin hcs .ok data)

/-- WRITE_DATA of no words has no transaction in its program (R108). -/
@[simp] theorem writeDataProgram_nil : writeDataProgram [] = [.done (.ok [])] := rfl

/-- READ_DATA of no words has no transaction in its program (R108). -/
@[simp] theorem readDataProgram_zero : readDataProgram 0 = [.done (.ok [])] := rfl

/-- Settles O21: both programs are the bare OK response. -/
theorem zeroLengthAnswers : Obligations.ZeroLengthAnswers := by
  intro s hrst hcs
  have hok := issue_done_ok hrst hcs []
  constructor
  · rw [exec_eq_issue (i := .writeData []) rfl, writeDataProgram_nil, hok]
  · rw [exec_eq_issue (i := .readData 0) rfl, readDataProgram_zero, hok]

end Sys2Proof.Machine

/-! The status decoder: DECODE_DEVINFO's end by the number of words, and the order of a temperature pair. -/

namespace Sys2Proof.Machine

/-- A program that only fails, run outside every transaction, answers its status with no data and no event (R211). -/
theorem issue_done_fail {s : State} (hrst : s.rstIn = []) (hcs : s.cs = false) (e : Status) :
    issue [.done (.fail e)] s = answered e [] [] s := calc
  issue [.done (.fail e)] s
  _ = raiseError e (begin s) := issue_done hrst (.fail e)
  _ = respond e [] (begin s) := raiseError_released (s := begin s) hcs e
  _ = answered e [] [] s := respond_begin hcs e []

/-- Words of any other number than 20 end DECODE_DEVINFO in E_SIZE (R193). -/
theorem decodeResult_of_length_ne {ws : List Word} (h : ws.length ≠ 20) : decodeResult ws = .fail .size :=
  if_pos (bne_iff_ne.mpr h)

/-- Settles O40: the program is the bare failure with E_SIZE, and chip-select is released. -/
theorem decodeSizeError : Obligations.DecodeSizeError := by
  intro ws s hrst hcs hlen
  rw [exec_eq_issue (i := .decodeDevinfo ws) rfl, decodeResult_of_length_ne hlen, issue_done_fail hrst hcs]

/-- `TempDecode` keeps the pair under MEASURED_FIRST and swaps it under the only other order (R199). -/
theorem tempDecode_eq_ite (order : TempOrder) (t0 t1 : Word) :
    tempDecode order t0 t1 = if order = .measuredFirst then (t0, t1) else (t1, t0) := by
  cases order with
  | measuredFirst => rfl
  | forcedFirst => rfl

/-- Settles O48: the law holds of either order, so of the open one. -/
theorem temperaturePair : Obligations.TemperaturePair :=
  fun t0 t1 => tempDecode_eq_ite Config.tempOrder t0 t1

end Sys2Proof.Machine

/-! What a run of acts can end in, said once, and what it keeps of the state it started from. -/

namespace Sys2Proof.Machine

/-- What a run leaves as it was while its acts go on: every register that no act but an end or a reset writes; the trace
only grows, and samples of `rst` are only taken. -/
structure Kept (s u : State) : Prop where
  phase : u.phase = s.phase
  req : u.req = s.req
  diValid : u.diValid = s.diValid
  lastErr : u.lastErr = s.lastErr
  di : u.di = s.di
  packGeom : u.packGeom = s.packGeom
  readyTimeout : u.readyTimeout = s.readyTimeout
  responses : u.responses = s.responses
  port : u.port = s.port
  trace : s.trace <+: u.trace
  rstIn : u.rstIn <:+ s.rstIn

theorem Kept.refl (s : State) : Kept s s :=
  ⟨rfl, rfl, rfl, rfl, rfl, rfl, rfl, rfl, rfl, List.prefix_rfl, List.suffix_rfl⟩

theorem Kept.takeRst {s u : State} (h : Kept s u) : Kept s (takeRst u) :=
  { h with rstIn := (List.tail_suffix u.rstIn).trans h.rstIn }

/-- An act that goes on keeps what a run keeps. -/
theorem Kept.goesOn {s u t : State} {a : Act} (h : Kept s u) (hg : GoesOn a u t) : Kept s t := by
  obtain ⟨e, he, _⟩ := hg.event
  exact {
    phase := hg.phase.trans h.phase
    req := hg.req.trans h.req
    diValid := hg.diValid.trans h.diValid
    lastErr := hg.lastErr.trans h.lastErr
    di := hg.di.trans h.di
    packGeom := hg.packGeom.trans h.packGeom
    readyTimeout := hg.readyTimeout.trans h.readyTimeout
    responses := hg.responses.trans h.responses
    port := hg.port.trans h.port
    trace := h.trace.trans (he ▸ List.prefix_append _ _)
    rstIn := hg.rstIn ▸ h.rstIn }

theorem rst_mem_of_asserted {s : State} (h : rstAsserted s = true) : true ∈ s.rstIn := by
  unfold rstAsserted at h
  cases hq : s.rstIn with
  | nil => simp [hq] at h
  | cons b bs => simp_all

/-- Everything a run of the acts `now`, with `later` left to do, can end in; `I` is known of the acts still to run and
the state before them. -/
inductive RunOutcome (I : List Act → State → Prop) (later : List Act) : State → Prop where
  | reset {a k u} : I (a :: k) u → rstAsserted u = true → RunOutcome I later (applyReset (takeRst u))
  | held {a k u wc} : I (a :: k) u → rstAsserted u = false → a = .ready ∨ a = .wait →
      RunOutcome I later { takeRst u with hrdyIn := [], wcount := wc, todo := .wait :: (k ++ later) }
  | timedOut {a k u rest wc} : I (a :: k) u → rstAsserted u = false → a = .ready ∨ a = .wait →
      u.readyTimeout ≠ none →
      RunOutcome I later (raiseError .timeout { takeRst u with hrdyIn := rest, wcount := wc })
  | finished {f k u} : I (.done f :: k) u → rstAsserted u = false → RunOutcome I later (finish f (takeRst u))
  | stopped {u} : I [] u → RunOutcome I later { u with todo := later }

/-- A run ends in one of its outcomes, `I` being what every act that goes on keeps. -/
theorem run_outcome {I : List Act → State → Prop}
    (hgo : ∀ a k u t, I (a :: k) u → (∀ f, a ≠ .done f) → GoesOn a (takeRst u) t → I k t) (later : List Act) :
    ∀ (now : List Act) (s : State), I now s → RunOutcome I later (run now later s) := by
  intro now
  induction now with
  | nil => exact fun s h => .stopped h
  | cons a now ih =>
    intro s h
    rw [run]
    split
    · next hr => exact .reset h hr
    next hr =>
    rw [Bool.not_eq_true] at hr
    split
    · next t ht =>
      have hne : ∀ f, a ≠ .done f := by rintro f rfl; cases ht
      exact ih t (hgo a now s t h hne (perform_go ht))
    · next t ht =>
      obtain ⟨ha, wc, rfl⟩ := perform_hold ht
      exact .held h hr ha
    · next t ht =>
      obtain ⟨f, rfl, rfl⟩ | ⟨ha, hn, rest, wc, rfl⟩ := perform_ended ht
      · exact .finished h hr
      · exact .timedOut h hr ha hn

/-- A run, by what it keeps and by which of its acts it is at. -/
theorem run_outcome_kept (later now : List Act) (s : State) :
    RunOutcome (fun k u => k <:+ now ∧ Kept s u) later (run now later s) :=
  run_outcome (fun _ _ _ _ h _ hg => ⟨(List.suffix_cons _ _).trans h.1, h.2.takeRst.goesOn hg⟩) later now s
    ⟨List.suffix_rfl, Kept.refl s⟩

end Sys2Proof.Machine

/-! The programs of the requests: how each ends, and that each keeps the wire grammar (R62). -/

namespace Sys2Proof.Machine

/-- How the program of a request ends. -/
def endOf : Instr → Finish
  | .readData n => if n = 0 then .ok [] else .readWords
  | .readReg _ => .readWords
  | .waitDpyReady a => .poll a
  | .packPixels d e p => packResult d e p
  | .decodeDevinfo ws => decodeResult ws
  | .queryDevinfo => .devInfo
  | _ => .ok []

/-- The acts of a transaction, none of which ends a request. -/
def noDone (acts : List Act) : Prop := ∀ f, Act.done f ∉ acts

theorem noDone_append {a b : List Act} (ha : noDone a) (hb : noDone b) : noDone (a ++ b) := by
  intro f hf
  rcases List.mem_append.mp hf with hf | hf
  · exact ha f hf
  · exact hb f hf

theorem noDone_cmdTxn (c : Word) : noDone (cmdTxn c) := by
  simp [noDone, cmdTxn, opening, startAct]

theorem noDone_wrTxn (ws : List Word) : noDone (wrTxn ws) := by
  simp [noDone, wrTxn, opening, startAct]

theorem noDone_wrBTxn (bs : List Byte) : noDone (wrBTxn bs) := by
  intro f
  by_cases h : bs = [] <;> simp [wrBTxn, opening, startAct, h]

theorem noDone_rdTxn (n : Nat) : noDone (rdTxn n) := by
  simp [noDone, rdTxn, opening, startAct]

theorem noDone_readRegTxns (a : Word) : noDone (readRegTxns a) :=
  noDone_append (noDone_append (noDone_cmdTxn _) (noDone_wrTxn _)) (noDone_rdTxn _)

/-- Where a transaction's acts lead the wire's position. -/
def BusPos.acts : List Act → BusPos → Option BusPos
  | [], p => some p
  | a :: as, p => (p.act a).bind (BusPos.acts as)

theorem BusPos.acts_append (a b : List Act) (p : BusPos) :
    BusPos.acts (a ++ b) p = (BusPos.acts a p).bind (BusPos.acts b) := by
  induction a generalizing p with
  | nil => rfl
  | cons x a ih => cases h : p.act x <;> simp [BusPos.acts, h, ih]

/-- One act of a program that keeps the grammar: its end, outside every transaction, or an act that leads on. -/
theorem fits_cons {a : Act} {k : List Act} {p : BusPos} :
    fits (a :: k) p = true ↔
      (∃ f, a = .done f ∧ k = [] ∧ p = .out) ∨ ∃ q, p.act a = some q ∧ fits k q = true := by
  have other : ∀ {a : Act}, (∀ f, a ≠ .done f) →
      (fits (a :: k) p = true ↔ ∃ q, p.act a = some q ∧ fits k q = true) := by
    intro a ha
    cases h : p.act a <;> simp [fits, h, ha]
  cases a with
  | done f => cases k <;> simp [fits, BusPos.act]
  | _ => rw [other (by simp)]; simp

/-- Acts that lead somewhere, and then a program that keeps the grammar from there. -/
theorem fits_append {a b : List Act} {p q : BusPos} (h : BusPos.acts a p = some q) (hb : fits b q = true) :
    fits (a ++ b) p = true := by
  induction a generalizing p with
  | nil => cases h; exact hb
  | cons x a ih =>
    obtain ⟨r, hr, h⟩ := Option.bind_eq_some_iff.mp h
    exact fits_cons.mpr (.inr ⟨r, hr, ih h⟩)

/-! ### The transactions keep the grammar -/

theorem acts_cmdTxn (c : Word) : BusPos.acts (cmdTxn c) .out = some .out := rfl

theorem acts_words (ws : List Word) {p : BusPos} (h : p = .wr ∨ p = .wrWords) :
    ∃ q, (q = .wr ∨ q = .wrWords) ∧ BusPos.acts (ws.flatMap fun w => [.ready, .x16 w]) p = some q := by
  induction ws generalizing p with
  | nil => exact ⟨p, h, rfl⟩
  | cons w ws ih =>
    obtain ⟨q, hq, h'⟩ := ih (.inr rfl)
    refine ⟨q, hq, ?_⟩
    rcases h with rfl | rfl <;> exact h'

theorem acts_wrTxn (ws : List Word) : BusPos.acts (wrTxn ws) .out = some .out := by
  obtain ⟨q, hq, h⟩ := acts_words ws (.inl rfl)
  rw [wrTxn, BusPos.acts_append, BusPos.acts_append, show BusPos.acts (opening .wr) .out = some .wr from rfl,
    Option.bind_some, h]
  rcases hq with rfl | rfl <;> rfl

theorem acts_bytes (bs : List Byte) : BusPos.acts (bs.map Act.x8) .wrBytes = some .wrBytes := by
  induction bs with
  | nil => rfl
  | cons b bs ih => exact ih

theorem acts_wrBTxn (bs : List Byte) : BusPos.acts (wrBTxn bs) .out = some .out := by
  cases bs with
  | nil => rfl
  | cons b bs =>
    rw [wrBTxn, BusPos.acts_append, BusPos.acts_append, show BusPos.acts (opening .wr) .out = some .wr from rfl]
    have h : BusPos.acts (.ready :: (b :: bs).map Act.x8) .wr = some .wrBytes := acts_bytes bs
    simp only [List.isEmpty_cons, Bool.false_eq_true, if_false, Option.bind_some, h]
    rfl

theorem acts_fillers (n : Nat) : BusPos.acts (List.replicate n [Act.ready, Act.fill]).flatten .rd = some .rd := by
  induction n with
  | zero => rfl
  | succ n ih => exact ih

theorem acts_rdTxn (n : Nat) : BusPos.acts (rdTxn n) .out = some .out := by
  rw [rdTxn, BusPos.acts_append, BusPos.acts_append, show BusPos.acts (opening .rd) .out = some .rd from rfl,
    Option.bind_some, acts_fillers]
  rfl

theorem acts_readRegTxns (a : Word) : BusPos.acts (readRegTxns a) .out = some .out := by
  rw [readRegTxns, BusPos.acts_append, BusPos.acts_append, acts_cmdTxn, Option.bind_some, acts_wrTxn,
    Option.bind_some, acts_rdTxn]

/-! ### The programs -/

/-- Every request's program is bus traffic that keeps the grammar, and then its one end. -/
theorem requestProgram_eq {i : Instr} {program : List Act} (h : requestProgram i = some program) :
    ∃ bus, program = bus ++ [.done (endOf i)] ∧ noDone bus ∧ BusPos.acts bus .out = some .out := by
  have none : noDone [] ∧ BusPos.acts [] .out = some .out := ⟨fun _ => List.not_mem_nil, rfl⟩
  cases i <;> simp only [requestProgram, reduceCtorEq, Option.some.injEq] at h <;> subst h
  case writeData ws =>
    cases ws with
    | nil => exact ⟨[], rfl, none⟩
    | cons w ws => exact ⟨_, rfl, noDone_wrTxn _, acts_wrTxn _⟩
  case writeBytes bs => exact ⟨_, rfl, noDone_wrBTxn _, acts_wrBTxn _⟩
  case readData n =>
    cases n with
    | zero => exact ⟨[], rfl, none⟩
    | succ n => exact ⟨_, rfl, noDone_rdTxn _, acts_rdTxn _⟩
  case writeReg a v =>
    refine ⟨_, rfl, noDone_append (noDone_cmdTxn _) (noDone_wrTxn _), ?_⟩
    rw [BusPos.acts_append, acts_cmdTxn, Option.bind_some, acts_wrTxn]
  case readReg a => exact ⟨_, rfl, noDone_readRegTxns a, acts_readRegTxns a⟩
  case waitDpyReady a => exact ⟨_, rfl, noDone_readRegTxns a, acts_readRegTxns a⟩
  case packPixels d e p => exact ⟨[], rfl, none⟩
  case decodeDevinfo ws => exact ⟨[], rfl, none⟩
  case queryDevinfo =>
    refine ⟨_, rfl, noDone_append (noDone_cmdTxn _) (noDone_rdTxn _), ?_⟩
    rw [BusPos.acts_append, acts_cmdTxn, Option.bind_some, acts_rdTxn]
  all_goals exact ⟨_, rfl, noDone_cmdTxn _, acts_cmdTxn _⟩

/-- The only end in a request's program is the request's. -/
theorem done_mem_program {i : Instr} {program : List Act} {f : Finish} (h : requestProgram i = some program)
    (hf : .done f ∈ program) : f = endOf i := by
  obtain ⟨bus, rfl, hbus, _⟩ := requestProgram_eq h
  rcases List.mem_append.mp hf with hf | hf
  · exact absurd hf (hbus f)
  · simpa using hf

/-- Every request's program keeps the grammar from outside every transaction. -/
theorem fits_requestProgram {i : Instr} {program : List Act} (h : requestProgram i = some program) :
    fits program .out = true := by
  obtain ⟨bus, rfl, _, hacts⟩ := requestProgram_eq h
  exact fits_append hacts rfl

/-! ### What an end tells of the request -/

theorem packSupported_eq_true {d : Depth} {e : Endian} : packSupported d e = true ↔ d = .d4 ∧ e = .little := by
  simp [packSupported]

/-- Any other pairing of depth and endianness than (4, little) is unimplemented (R171). -/
theorem packResult_unsupported {d : Depth} {e : Endian} (h : ¬ (d = .d4 ∧ e = .little)) (p : List Word) :
    packResult d e p = .fail .unimpl := by
  rw [← packSupported_eq_true, Bool.not_eq_true] at h
  simp [packResult, h]

/-- A 4 bpp little-endian payload is malformed (R174), or it is packed, with the geometry of its rectangle (R28). -/
theorem packResult_supported (p : List Word) :
    packResult .d4 .little p = .fail .precond ∨
      ∃ x y w h pixels out, p = x :: y :: w :: h :: pixels ∧
        packResult .d4 .little p = .pack (packGeomOf x.toNat w.toNat) out := by
  match p with
  | [] | [_] | [_, _] | [_, _, _] => exact .inl rfl
  | x :: y :: w :: h :: pixels =>
    simp only [packResult, packSupported_eq_true.mpr ⟨rfl, rfl⟩, payloadRect, Bool.not_true, Bool.false_eq_true, if_false]
    split
    · exact .inl rfl
    split
    · exact .inl rfl
    split
    · exact .inl rfl
    · exact .inr ⟨x, y, w, h, pixels, _, rfl, rfl⟩

theorem decodeResult_cases (ws : List Word) :
    decodeResult ws = .fail .size ∨ decodeResult ws = .ok (devInfoData (devInfo ws)) := by
  unfold decodeResult
  split
  · exact .inl rfl
  · exact .inr rfl

/-- Everything the end of a request can be, and whose it is. -/
inductive Ends : Instr → Finish → Prop where
  | ok (i : Instr) : Ends i (.ok [])
  | readWords (i : Instr) : Ends i .readWords
  | poll (a : Word) : Ends (.waitDpyReady a) (.poll a)
  | devInfo : Ends .queryDevinfo .devInfo
  | unimpl (d : Depth) (e : Endian) (p : List Word) : Ends (.packPixels d e p) (.fail .unimpl)
  | precond (d : Depth) (e : Endian) (p : List Word) : Ends (.packPixels d e p) (.fail .precond)
  | packed (x y w h : Word) (pixels out : List Word) :
    Ends (.packPixels .d4 .little (x :: y :: w :: h :: pixels)) (.pack (packGeomOf x.toNat w.toNat) out)
  | size (ws : List Word) : Ends (.decodeDevinfo ws) (.fail .size)
  | decoded (ws data : List Word) : Ends (.decodeDevinfo ws) (.ok data)

theorem ends_endOf (i : Instr) : Ends i (endOf i) := by
  cases i
  case readData n => cases n with
    | zero => exact .ok _
    | succ n => exact .readWords _
  case readReg a => exact .readWords _
  case waitDpyReady a => exact .poll a
  case queryDevinfo => exact .devInfo
  case packPixels d e p =>
    show Ends _ (packResult d e p)
    by_cases hs : d = .d4 ∧ e = .little
    · obtain ⟨rfl, rfl⟩ := hs
      obtain h | ⟨x, y, w, h, pixels, out, rfl, hp⟩ := packResult_supported p
      · exact h ▸ .precond _ _ p
      · exact hp ▸ .packed x y w h pixels out
    · exact packResult_unsupported hs p ▸ .unimpl d e p
  case decodeDevinfo ws =>
    show Ends _ (decodeResult ws)
    obtain h | h := decodeResult_cases ws <;> rw [h]
    · exact .size ws
    · exact .decoded ws _
  all_goals exact .ok _

/-! ### The program of an accepted request (R22, R216) -/

/-- What the ENGINE runs for a request is its instruction's program, or the answer to a violation. -/
theorem programOf_eq_some {r : Request} {program : List Act} (h : programOf r = some program) :
    (∃ i, decodeRequest r = .instr i ∧ requestProgram i = some program) ∨
      (∃ v, decodeRequest r = .violation v) ∧ program = [.done (.fail .illegal)] := by
  unfold programOf at h
  split at h
  · next i hi => exact .inl ⟨i, hi, h⟩
  · next v hv => cases h; exact .inr ⟨⟨v, hv⟩, rfl⟩
  · cases h
  · cases h

/-- An accepted request's program keeps the grammar from outside every transaction. -/
theorem fits_programOf {r : Request} {program : List Act} (h : programOf r = some program) :
    fits program .out = true := by
  obtain ⟨i, _, hi⟩ | ⟨_, rfl⟩ := programOf_eq_some h
  · exact fits_requestProgram hi
  · rfl

/-- The end of an accepted request is its instruction's, or E_ILLEGAL for a violation. -/
theorem done_mem_programOf {r : Request} {program : List Act} {f : Finish} (h : programOf r = some program)
    (hf : .done f ∈ program) :
    (∃ i, decodeRequest r = .instr i ∧ requestProgram i = some program ∧ f = endOf i) ∨
      (∃ v, decodeRequest r = .violation v) ∧ f = .fail .illegal := by
  obtain ⟨i, hi, hprog⟩ | ⟨hv, rfl⟩ := programOf_eq_some h
  · exact .inl ⟨i, hi, hprog, done_mem_program hprog hf⟩
  · exact .inr ⟨hv, by simpa using hf⟩

theorem wait_not_mem_programOf {r : Request} {program : List Act} (h : programOf r = some program) :
    Act.wait ∉ program := by
  obtain ⟨i, _, hi⟩ | ⟨_, rfl⟩ := programOf_eq_some h
  · exact wait_not_mem_program hi
  · simp

/-- Only WAIT_DPY_READY's program ends in a poll's test (R156). -/
theorem programOf_poll {r : Request} {program : List Act} {a : Word} (h : programOf r = some program)
    (hf : .done (.poll a) ∈ program) : program = pollProgram a := by
  obtain ⟨i, _, hi, hend⟩ | ⟨_, hend⟩ := done_mem_programOf h hf
  · have hends := ends_endOf i
    rw [← hend] at hends
    cases hends
    exact (Option.some.inj hi).symm
  · cases hend

/-! ### A step, as the run that it is -/

/-- Everything a step with a next state can be: the reset at its start, an IDLE block with nothing to take up, the program
of the first waiting request from its start, or a BUSY block's acts left, all of them or a transaction's opening. -/
theorem step_run {s t : State} (h : step s = .next t) :
    (rstAsserted s = true ∧ t = applyReset (takeRst s)) ∨
    (s.phase = .idle ∧ s.port = [] ∧ t = takeRst s) ∨
    (s.phase = .idle ∧ ∃ r rest program, s.port = r :: rest ∧ programOf r = some program ∧
      t = run program [] (begin (accept r (takeRst s)))) ∨
    (s.phase = .busy ∧ ∃ now later k tape drawn, s.todo = now ++ later ∧
      t = run now later { takeRst s with todo := k, hrdyIn := tape, hrdyDrawn := drawn }) := by
  obtain hreset | ⟨_, hi, hport, rfl⟩ | ⟨_, hi, r, rest, program, hport, hprog, rfl⟩ | ⟨_, hb, p, k, htodo, rfl⟩ |
    ⟨_, hb, _, _, rfl⟩ := step_cases h
  · exact .inl hreset
  · exact .inr (.inl ⟨hi, hport, rfl⟩)
  · refine .inr (.inr (.inl ⟨hi, r, rest, program, hport, ?_, rfl⟩))
    obtain ⟨i, hi, hprog⟩ | ⟨⟨v, hv⟩, rfl⟩ := hprog
    · simp [programOf, hi, hprog]
    · simp [programOf, hv]
  · exact .inr (.inr (.inr ⟨hb, opening p, k, k, s.hrdyIn, s.hrdyDrawn, htodo, rfl⟩))
  · refine .inr (.inr (.inr ⟨hb, s.todo, [], s.todo, ?_⟩))
    unfold resume supplyHrdy
    split
    · exact ⟨s.hrdyIn, s.hrdyDrawn, (List.append_nil _).symm, rfl⟩
    · exact ⟨_, _, (List.append_nil _).symm, rfl⟩

end Sys2Proof.Machine

/-! The invariant of the block along a run (R22, R31, R62). -/

namespace Sys2Proof.Machine

/-- The invariant of a BUSY block that has `acts` left to do. -/
structure Running (acts : List Act) (s : State) : Prop where
  phase : s.phase = .busy
  wire : ∃ p, scan s.trace .out = some p ∧ s.cs = p.inside ∧ fits acts p = true
  latch : ∃ r past rest, s.req = some r ∧ programOf r = some (past ++ rest) ∧ StandsAt acts rest ∧
    s.rx.length = received past 0
  read : ReadOk s
  count : s.wcount = 0 ∨ acts.head? = some .wait
  responses : ResponsesOk s

/-- The invariant of the wire and the record between two requests. -/
structure Quiet (s : State) : Prop where
  wire : scan s.trace .out = some .out
  cs : s.cs = false
  responses : ResponsesOk s

/-! ### The two forms of the invariant -/

theorem Running.blockInv {acts : List Act} {s : State} (h : Running acts s) :
    BlockInv { s with todo := acts } := by
  obtain ⟨p, hscan, hcs, hfits⟩ := h.wire
  exact {
    wire := ⟨p, hscan, hcs⟩
    phase := by
      unfold PhaseOk
      rw [h.phase]
      exact ⟨p, hscan, hfits⟩
    latch := fun _ => h.latch
    read := h.read
    count := h.count
    responses := h.responses.congr rfl rfl }

theorem BlockInv.running {s : State} (h : BlockInv s) (hb : s.phase = .busy) : Running s.todo s := by
  obtain ⟨p, hscan, hcs⟩ := h.wire
  have hphase := h.phase
  unfold PhaseOk at hphase
  rw [hb] at hphase
  obtain ⟨q, hq, hfits⟩ := hphase
  obtain rfl := Option.some.inj (hscan.symm.trans hq)
  exact ⟨hb, ⟨p, hscan, hcs, hfits⟩, h.latch hb, h.read, h.count, h.responses⟩

theorem Quiet.blockInv {s : State} (h : Quiet s) (hi : s.phase = .idle) (hreq : s.req = none) (htodo : s.todo = [])
    (hrx : s.rx = []) (hw : s.wcount = 0) : BlockInv s where
  wire := ⟨.out, h.wire, h.cs⟩
  phase := by
    unfold PhaseOk
    rw [hi]
    exact ⟨h.cs, hreq, htodo, hrx, hw⟩
  latch := fun hb => by rw [hi] at hb; cases hb
  read := .inr ⟨hrx, fun p hp => by rw [h.wire] at hp; cases hp; rfl⟩
  count := .inl hw
  responses := h.responses

/-- Chip-select released means that the wire is outside every transaction. -/
theorem WireOk.out_of_released {s : State} (h : WireOk s) (hcs : s.cs = false) : scan s.trace .out = some .out := by
  obtain ⟨p, hscan, hp⟩ := h
  cases p <;> simp_all [BusPos.inside]

/-- An IDLE block is quiet, and nothing of a request is left in it. -/
theorem BlockInv.quiet {s : State} (h : BlockInv s) (hi : s.phase = .idle) : Quiet s := by
  have hphase := h.phase
  unfold PhaseOk at hphase
  rw [hi] at hphase
  obtain ⟨hcs, _⟩ := hphase
  exact ⟨h.wire.out_of_released hcs, hcs, h.responses⟩

theorem Running.wireOk {acts : List Act} {s : State} (h : Running acts s) : WireOk s := by
  obtain ⟨p, hscan, hcs, _⟩ := h.wire
  exact ⟨p, hscan, hcs⟩

theorem Running.takeRst {acts : List Act} {s : State} (h : Running acts s) : Running acts (takeRst s) :=
  ⟨h.phase, h.wire, h.latch, h.read, h.count, h.responses.congr rfl rfl⟩

/-! ### The request in progress -/

theorem Running.not_nil {s : State} (h : Running [] s) : False := by
  obtain ⟨p, _, _, hfits⟩ := h.wire
  cases hfits

/-- At the end of its acts a request is outside every transaction. -/
theorem Running.at_done {f : Finish} {k : List Act} {s : State} (h : Running (.done f :: k) s) :
    k = [] ∧ scan s.trace .out = some .out ∧ s.cs = false := by
  obtain ⟨p, hscan, hcs, hfits⟩ := h.wire
  obtain ⟨_, _, hk, rfl⟩ | ⟨q, hq, _⟩ := fits_cons.mp hfits
  · exact ⟨hk, hscan, hcs⟩
  · cases hq

theorem Running.quiet_of_done {f : Finish} {k : List Act} {s : State} (h : Running (.done f :: k) s) : Quiet s := by
  obtain ⟨_, hscan, hcs⟩ := h.at_done
  exact ⟨hscan, hcs, h.responses⟩

/-- The latched request's program, the act that is next left in it. -/
theorem Running.program {a : Act} {k : List Act} {s : State} (h : Running (a :: k) s) (ha : a ≠ .wait) :
    ∃ r past, s.req = some r ∧ programOf r = some (past ++ a :: k) ∧ s.rx.length = received past 0 := by
  obtain ⟨r, past, rest, hreq, hprog, hst, hrx⟩ := h.latch
  obtain rfl | ⟨_, hw, _⟩ := hst
  · exact ⟨r, past, hreq, hprog, hrx⟩
  · cases hw; exact absurd rfl ha

/-! ### One act -/

/-- An act that goes on leads along the latched request's program. -/
theorem Running.latch_goesOn {a : Act} {k : List Act} {s t : State} (h : Running (a :: k) s) (hg : GoesOn a s t) :
    ∃ r past, t.req = some r ∧ programOf r = some (past ++ k) ∧ t.rx.length = received past 0 := by
  obtain ⟨r, past, rest, hreq, hprog, hst, hrx⟩ := h.latch
  have hrest : ∃ b, rest = b :: k ∧ ∀ n, received [b] n = received [a] n := by
    obtain rfl | ⟨k', hk, rfl⟩ := hst
    · exact ⟨a, rfl, fun _ => rfl⟩
    · cases hk; exact ⟨.ready, rfl, fun _ => rfl⟩
  obtain ⟨b, rfl, hb⟩ := hrest
  refine ⟨r, past ++ [b], hg.req.trans hreq, by simpa using hprog, ?_⟩
  rw [hg.rx, hrx, received_append, hb]

theorem Running.goesOn {a : Act} {k : List Act} {s t : State} (h : Running (a :: k) s) (hg : GoesOn a s t)
    (ha : ∀ f, a ≠ .done f) : Running k t := by
  obtain ⟨p, hscan, hcs, hfits⟩ := h.wire
  obtain ⟨f, hf, _⟩ | ⟨q, hact, hfits⟩ := fits_cons.mp hfits
  · exact absurd hf (ha f)
  obtain ⟨e, htrace, hevent⟩ := hg.event
  obtain ⟨hnext, hread⟩ := hevent p q hact
  have hscan' : scan t.trace .out = some q := by
    rw [htrace, scan_append, hscan]
    simp [scan, hnext]
  obtain ⟨r, past, hreq, hprog, hrx⟩ := h.latch_goesOn hg
  refine ⟨hg.phase.trans h.phase, ⟨q, hscan', hg.cs p q hact hcs, hfits⟩, ⟨r, past, k, hreq, hprog, .inl rfl, hrx⟩,
    ?_, ?_, h.responses.congr hg.responses hg.lastErr⟩
  · have hlast : lastRead t.trace = p.readWords e (lastRead s.trace) := by
      rw [lastRead, htrace, lastReadFrom_snoc hscan]; rfl
    have hs : s.rx = lastRead s.trace ∨ s.rx = [] ∧ p.inRead = false :=
      h.read.imp_right fun ⟨hnil, hout⟩ => ⟨hnil, hout p hscan⟩
    refine (hread _ hs).imp (fun h => h.trans hlast.symm) fun ⟨hnil, hq⟩ => ⟨hnil, fun p' hp' => ?_⟩
    cases hscan'.symm.trans hp'
    exact hq
  · obtain hw | ⟨hw, hne⟩ := hg.wcount
    · exact .inl hw
    · exact .inl (hw.trans (h.count.resolve_right fun hh => hne (Option.some.inj hh)))

/-- A ready-wait that holds stands inside its hold. -/
theorem Running.hold {a : Act} {k : List Act} {s : State} (h : Running (a :: k) s) (ha : a = .ready ∨ a = .wait)
    (wc : Nat) : Running (.wait :: k) { s with hrdyIn := [], wcount := wc } := by
  obtain ⟨p, hscan, hcs, hfits⟩ := h.wire
  obtain ⟨r, past, rest, hreq, hprog, hst, hrx⟩ := h.latch
  refine ⟨h.phase, ⟨p, hscan, hcs, ?_⟩, ⟨r, past, rest, hreq, hprog, .inr ⟨k, rfl, ?_⟩, hrx⟩, h.read, .inr rfl,
    h.responses.congr rfl rfl⟩
  · rcases ha with rfl | rfl
    · obtain ⟨f, hf, _⟩ | hq := fits_cons.mp hfits
      · cases hf
      · exact fits_cons.mpr (.inr hq)
    · exact hfits
  · rcases ha with rfl | rfl
    · obtain rfl | ⟨_, hw, _⟩ := hst
      · rfl
      · cases hw
    · obtain rfl | ⟨k', hw, rfl⟩ := hst
      · exact absurd (List.mem_append_right past List.mem_cons_self) (wait_not_mem_programOf hprog)
      · cases hw; rfl

/-! ### The ends -/

theorem Quiet.congr {s t : State} (h : Quiet s) (htrace : t.trace = s.trace) (hcs : t.cs = s.cs)
    (hr : t.responses = s.responses) (hl : t.lastErr = s.lastErr) : Quiet t :=
  ⟨htrace ▸ h.wire, hcs.trans h.cs, h.responses.congr hr hl⟩

/-- A response, with data only if it is OK, keeps the record's part of the invariant (R211). -/
theorem ResponsesOk.respond {s : State} (h : ResponsesOk s) {st : Status} {data : List Word}
    (hd : st = .ok ∨ data = []) : ResponsesOk (respond st data s) where
  data := by
    intro r hr hne
    rcases List.mem_append.mp hr with hr | hr
    · exact h.data r hr hne
    · obtain rfl := List.mem_singleton.mp hr
      exact hd.resolve_left hne
  lastErr := .inr (by simp)

theorem Quiet.respond {s : State} (h : Quiet s) {st : Status} {data : List Word} (hd : st = .ok ∨ data = []) :
    BlockInv (respond st data s) :=
  Quiet.blockInv ⟨h.wire, h.cs, h.responses.respond hd⟩ rfl rfl rfl rfl rfl

/-- Chip-select released, if it is asserted, leaves the wire outside every transaction. -/
theorem WireOk.released {s : State} (h : WireOk s) :
    scan (if s.cs then s.trace ++ [.cs0] else s.trace) .out = some .out := by
  obtain ⟨p, hscan, hcs⟩ := h
  rw [hcs]
  split
  · next hin =>
    rw [scan_append, hscan, Option.bind_some]
    simp [scan, BusPos.next, hin]
  · next hin =>
    rw [hscan]
    simpa [BusPos.inside] using hin

/-- An error ends its request with the invariant kept, inside a transaction or outside (R212). -/
theorem WireOk.raiseError {s : State} (h : WireOk s) (hr : ResponsesOk s) (e : Status) :
    BlockInv (raiseError e s) := by
  have hrel := h.released
  cases hcs : s.cs with
  | false =>
    rw [hcs] at hrel
    rw [raiseError_released hcs]
    exact Quiet.respond ⟨hrel, hcs, hr⟩ (.inr rfl)
  | true =>
    rw [hcs] at hrel
    rw [raiseError_asserted hcs]
    exact Quiet.respond (s := csDeassert s) ⟨hrel, rfl, hr.congr rfl rfl⟩ (.inr rfl)

theorem WireOk.applyReset {s : State} (h : WireOk s) (hr : ResponsesOk s) : BlockInv (applyReset s) :=
  Quiet.blockInv ⟨h.released, rfl, hr.data, .inl rfl⟩ rfl rfl rfl rfl rfl

/-- Further polls start over at the loop's head (R156). -/
theorem Running.poll {a : Word} {s : State} (h : Running [.done (.poll a)] s) :
    Running (pollProgram a) { s with todo := pollProgram a, rx := [] } := by
  obtain ⟨_, hscan, hcs⟩ := h.at_done
  obtain ⟨r, past, hreq, hprog, _⟩ := h.program (by simp)
  have hpoll := programOf_poll (a := a) hprog (by simp)
  refine ⟨h.phase, ⟨.out, hscan, hcs, ?_⟩, ⟨r, [], pollProgram a, hreq, ?_, .inl rfl, rfl⟩, .inr ⟨rfl, ?_⟩, ?_,
    h.responses.congr rfl rfl⟩
  · exact hpoll ▸ fits_programOf hprog
  · rw [hprog, hpoll]; rfl
  · intro p hp
    rw [show scan s.trace .out = some p from hp] at hscan
    cases hscan
    rfl
  · exact .inl (h.count.resolve_right (by simp))

/-- The end of a request keeps the invariant. -/
theorem Running.finish {f : Finish} {k : List Act} {s : State} (h : Running (.done f :: k) s) :
    BlockInv (finish f s) := by
  have hq := h.quiet_of_done
  obtain ⟨rfl, _, _⟩ := h.at_done
  cases f with
  | ok data => exact hq.respond (.inl rfl)
  | fail e => exact h.wireOk.raiseError h.responses e
  | pack geom out =>
    exact Quiet.respond (s := { s with packGeom := geom }) (hq.congr rfl rfl rfl rfl) (.inl rfl)
  | readWords => exact hq.respond (.inl rfl)
  | poll a =>
    rw [Machine.finish]
    split
    · exact hq.respond (.inl rfl)
    · exact h.poll.blockInv
  | devInfo =>
    simp only [Machine.finish]
    split
    · exact WireOk.raiseError (s := { s with diValid := false }) h.wireOk (h.responses.congr rfl rfl) .comm
    · exact Quiet.respond (s := { s with di := _, diValid := true }) (hq.congr rfl rfl rfl rfl) (.inl rfl)

/-! ### Runs and steps -/

/-- A run of a BUSY block, by the invariant and by what it keeps. -/
theorem Running.run_outcome {now later : List Act} {s : State} (h : Running (now ++ later) s) :
    RunOutcome (fun k u => Running (k ++ later) u ∧ Kept s u) later (run now later s) := by
  refine Machine.run_outcome (fun a k u t ⟨hu, hk⟩ hne hg => ?_) later now s ⟨h, Kept.refl s⟩
  exact ⟨hu.takeRst.goesOn hg hne, hk.takeRst.goesOn hg⟩

/-- Every outcome of a run keeps the invariant. -/
theorem RunOutcome.blockInv {s t : State} {later : List Act}
    (h : RunOutcome (fun k u => Running (k ++ later) u ∧ Kept s u) later t) : BlockInv t := by
  cases h with
  | reset hu _ => exact hu.1.takeRst.wireOk.applyReset hu.1.takeRst.responses
  | held hu _ ha => exact (hu.1.takeRst.hold ha _).blockInv
  | @timedOut _ _ u rest wc hu _ _ _ =>
    exact WireOk.raiseError (s := { takeRst u with hrdyIn := rest, wcount := wc }) hu.1.wireOk
      (hu.1.responses.congr rfl rfl) .timeout
  | finished hu _ => exact hu.1.takeRst.finish
  | stopped hu => exact hu.1.blockInv

/-- A request's start on a quiet block (R22, R31). -/
theorem Quiet.begin {s : State} (h : Quiet s) {r : Request} {program : List Act} (hreq : s.req = some r)
    (hprog : programOf r = some program) : Running program (begin s) where
  phase := rfl
  wire := ⟨.out, h.wire, h.cs, fits_programOf hprog⟩
  latch := ⟨r, [], program, hreq, hprog, .inl rfl, rfl⟩
  read := .inr ⟨rfl, fun p hp => by cases h.wire.symm.trans hp; rfl⟩
  count := .inl rfl
  responses := h.responses.congr rfl rfl

/-- What an accepted request starts, or a BUSY block goes on with, is a run of a request in progress. -/
theorem BlockInv.running_run {s t : State} (h : BlockInv s) (ht : step s = .next t) :
    (rstAsserted s = true ∧ t = applyReset (takeRst s)) ∨
    (s.phase = .idle ∧ t = takeRst s) ∨
    ∃ q u now later, inProgress s = some q ∧ u.req = some q ∧ Running (now ++ later) u ∧
      Kept { s with phase := u.phase, req := u.req, port := u.port } u ∧ t = run now later u := by
  obtain hreset | ⟨hi, _, rfl⟩ | ⟨hi, r, rest, program, hport, hprog, rfl⟩ |
    ⟨hb, now, later, k, tape, drawn, htodo, rfl⟩ := step_run ht
  · exact .inl hreset
  · exact .inr (.inl ⟨hi, rfl⟩)
  · have hq : Quiet (accept r (takeRst s)) := (h.quiet hi).congr rfl rfl rfl rfl
    refine .inr (.inr ⟨r, begin (accept r (takeRst s)), program, [], ?_, rfl, ?_, ?_, rfl⟩)
    · simp [inProgress, hi, hport]
    · rw [List.append_nil]
      exact hq.begin rfl hprog
    · exact ⟨rfl, rfl, rfl, rfl, rfl, rfl, rfl, rfl, rfl, List.prefix_rfl, List.tail_suffix _⟩
  · have hr := h.running hb
    obtain ⟨q, _, _, hreq, _⟩ := hr.latch
    refine .inr (.inr ⟨q, { takeRst s with todo := k, hrdyIn := tape, hrdyDrawn := drawn }, now, later, ?_, hreq,
      ?_, ?_, rfl⟩)
    · simpa [inProgress, hb] using hreq
    · rw [← htodo]
      exact ⟨hr.phase, hr.wire, hr.latch, hr.read, hr.count, hr.responses.congr rfl rfl⟩
    · exact ⟨rfl, rfl, rfl, rfl, rfl, rfl, rfl, rfl, rfl, List.prefix_rfl, List.tail_suffix _⟩

theorem BlockInv.takeRst {s : State} (h : BlockInv s) : BlockInv (takeRst s) :=
  ⟨h.wire, h.phase, h.latch, h.read, h.count, h.responses.congr rfl rfl⟩

/-- Settles O2: the invariant of a BUSY block holds along each run of a step, and every outcome of a run keeps the
block's. -/
theorem stepKeepsInvariant : Obligations.StepKeepsInvariant := by
  intro s t h ht
  obtain ⟨_, rfl⟩ | ⟨_, rfl⟩ | ⟨_, u, now, later, _, _, hu, _, rfl⟩ := h.running_run ht
  · exact WireOk.applyReset (s := takeRst s) h.wire (h.responses.congr rfl rfl)
  · exact h.takeRst
  · exact hu.run_outcome.blockInv

end Sys2Proof.Machine

/-! What a run's result is to the HOST: a reset, a request that goes on, or one that is answered (R211, R212, R240). -/

namespace Sys2Proof.Machine

/-- A request answered: what every response leaves, whatever ends the request (R211, R34). -/
structure Responded (st : Status) (data : List Word) (s t : State) : Prop where
  phase : t.phase = .idle
  req : t.req = none
  lastErr : t.lastErr = st
  responses : t.responses = s.responses ++ [⟨st, data⟩]
  port : t.port = s.port
  readyTimeout : t.readyTimeout = s.readyTimeout
  trace : s.trace <+: t.trace

theorem responded_respond (st : Status) (data : List Word) (s : State) : Responded st data s (respond st data s) :=
  ⟨rfl, rfl, rfl, rfl, rfl, rfl, List.prefix_rfl⟩

theorem responded_raiseError (e : Status) (s : State) : Responded e [] s (raiseError e s) := by
  cases hcs : s.cs with
  | false => rw [raiseError_released hcs]; exact responded_respond e [] s
  | true => rw [raiseError_asserted hcs]; exact ⟨rfl, rfl, rfl, rfl, rfl, rfl, List.prefix_append _ _⟩

@[simp] theorem raiseError_di (e : Status) (s : State) : (raiseError e s).di = s.di := by
  unfold raiseError; split <;> rfl
@[simp] theorem raiseError_diValid (e : Status) (s : State) : (raiseError e s).diValid = s.diValid := by
  unfold raiseError; split <;> rfl
@[simp] theorem raiseError_packGeom (e : Status) (s : State) : (raiseError e s).packGeom = s.packGeom := by
  unfold raiseError; split <;> rfl

/-- The statuses an end can answer with. -/
def endStatuses : Finish → List Status
  | .ok _ => [.ok]
  | .fail e => [e]
  | .pack _ _ => [.ok]
  | .readWords => [.ok]
  | .poll _ => [.ok]
  | .devInfo => [.ok, .comm]

/-- An end answers its request, or, where a poll has read non-zero, goes back to the loop's head. -/
theorem finish_cases (f : Finish) (s : State) :
    (∃ st data, st ∈ endStatuses f ∧ Responded st data s (finish f s)) ∨
      ∃ a, f = .poll a ∧ finish f s = { s with todo := pollProgram a, rx := [] } := by
  cases f with
  | ok data => exact .inl ⟨.ok, data, by simp [endStatuses], responded_respond _ _ _⟩
  | fail e => exact .inl ⟨e, [], by simp [endStatuses], responded_raiseError e s⟩
  | pack geom out =>
    exact .inl ⟨.ok, out, by simp [endStatuses], rfl, rfl, rfl, rfl, rfl, rfl, List.prefix_rfl⟩
  | readWords => exact .inl ⟨.ok, _, by simp [endStatuses], responded_respond _ _ _⟩
  | poll a =>
    rw [finish]
    split
    · exact .inl ⟨.ok, [], by simp [endStatuses], responded_respond _ _ _⟩
    · exact .inr ⟨a, rfl, rfl⟩
  | devInfo =>
    left
    simp only [finish]
    split
    · have h := responded_raiseError .comm { s with diValid := false }
      exact ⟨.comm, [], by simp [endStatuses], h.phase, h.req, h.lastErr, h.responses, h.port, h.readyTimeout, h.trace⟩
    · exact ⟨.ok, _, by simp [endStatuses], rfl, rfl, rfl, rfl, rfl, rfl, List.prefix_rfl⟩

/-- Only QUERY_DEVINFO's end writes the cache and DI_VALID (R190, R194). -/
theorem finish_di {f : Finish} (hf : f ≠ .devInfo) (s : State) :
    (finish f s).di = s.di ∧ (finish f s).diValid = s.diValid := by
  cases f with
  | ok data => exact ⟨rfl, rfl⟩
  | fail e => exact ⟨raiseError_di e s, raiseError_diValid e s⟩
  | pack geom out => exact ⟨rfl, rfl⟩
  | readWords => exact ⟨rfl, rfl⟩
  | poll a => rw [finish]; split <;> exact ⟨rfl, rfl⟩
  | devInfo => exact absurd rfl hf

/-- Only a successful pack's end writes PACK_GEOM (R28). -/
theorem finish_packGeom {f : Finish} (hf : ∀ geom out, f ≠ .pack geom out) (s : State) :
    (finish f s).packGeom = s.packGeom := by
  cases f with
  | ok data => rfl
  | fail e => exact raiseError_packGeom e s
  | pack geom out => exact absurd rfl (hf geom out)
  | readWords => rfl
  | poll a => rw [finish]; split <;> rfl
  | devInfo =>
    simp only [finish]
    split
    · rw [raiseError_packGeom]
    · rfl

theorem Kept.responded {s u t : State} (h : Kept s u) {st : Status} {data : List Word} (ht : Responded st data u t) :
    Responded st data s t where
  phase := ht.phase
  req := ht.req
  lastErr := ht.lastErr
  responses := h.responses ▸ ht.responses
  port := ht.port.trans h.port
  readyTimeout := ht.readyTimeout.trans h.readyTimeout
  trace := h.trace.trans ht.trace

/-- The results of a run from `s`, `J` being known of the acts left and the state at the request's end. -/
inductive RunResult (J : List Act → State → Prop) (s : State) : State → Prop where
  /-- An asserted sample of `rst` was met. -/
  | reset {u} : true ∈ s.rstIn → Kept s u → RunResult J s (applyReset u)
  /-- The request goes on: it holds, it has opened a transaction, or it polls again. -/
  | goesOn {t} : Kept s t → RunResult J s t
  /-- A ready-wait timed out. -/
  | timedOut {a k u t} : J (a :: k) u → a = .ready ∨ a = .wait → Kept s u → s.readyTimeout ≠ none →
      Responded .timeout [] s t → t.di = s.di → t.diValid = s.diValid → t.packGeom = s.packGeom → RunResult J s t
  /-- The end of the request answered it. -/
  | answered {f k u st data} : J (.done f :: k) u → Kept s u → st ∈ endStatuses f →
      Responded st data s (finish f (takeRst u)) → RunResult J s (finish f (takeRst u))

theorem RunOutcome.result {J : List Act → State → Prop} {later : List Act} {s t : State}
    (h : RunOutcome (fun k u => J k u ∧ Kept s u) later t) : RunResult J s t := by
  cases h with
  | reset hu hr => exact .reset (hu.2.rstIn.subset (rst_mem_of_asserted hr)) hu.2.takeRst
  | held hu _ _ => exact .goesOn { hu.2.takeRst with }
  | @timedOut _ _ u rest wc hu _ ha hn =>
    have hk : Kept s { takeRst u with hrdyIn := rest, wcount := wc } := { hu.2.takeRst with }
    refine .timedOut hu.1 ha hu.2 (hu.2.readyTimeout ▸ hn) (hk.responded (responded_raiseError _ _)) ?_ ?_ ?_
    · rw [raiseError_di]; exact hk.di
    · rw [raiseError_diValid]; exact hk.diValid
    · rw [raiseError_packGeom]; exact hk.packGeom
  | @finished f k u hu _ =>
    obtain ⟨st, data, hst, hr⟩ | ⟨a, rfl, hpoll⟩ := finish_cases f (takeRst u)
    · exact .answered hu.1 hu.2 hst (hu.2.takeRst.responded hr)
    · rw [hpoll]
      exact .goesOn { hu.2.takeRst with }
  | stopped hu => exact .goesOn { hu.2 with }

/-- A run's result, by which of its acts ended it. -/
theorem run_result (now later : List Act) (s : State) :
    RunResult (fun k _ => k <:+ now) s (run now later s) :=
  (run_outcome_kept later now s).result

/-- A run of a BUSY block, by the invariant at its end. -/
theorem Running.run_result {now later : List Act} {s : State} (h : Running (now ++ later) s) :
    RunResult (fun k u => Running (k ++ later) u) s (run now later s) :=
  h.run_outcome.result

/-! ### What holds of every step -/

theorem RunResult.trace {J : List Act → State → Prop} {s t : State} (h : RunResult J s t) : s.trace <+: t.trace := by
  cases h with
  | reset _ hk =>
    rw [applyReset_trace]
    split
    · exact hk.trace.trans (List.prefix_append _ _)
    · exact hk.trace
  | goesOn hk => exact hk.trace
  | timedOut _ _ _ _ hr _ _ _ => exact hr.trace
  | answered _ _ _ hr => exact hr.trace

/-- A run makes no response, or one, which ends the request. -/
theorem RunResult.responses {J : List Act → State → Prop} {s t : State} (h : RunResult J s t) :
    t.responses = s.responses ∨ ∃ st data, Responded st data s t := by
  cases h with
  | reset _ hk => exact .inl hk.responses
  | goesOn hk => exact .inl hk.responses
  | timedOut _ _ _ _ hr _ _ _ => exact .inr ⟨_, _, hr⟩
  | answered _ _ _ hr => exact .inr ⟨_, _, hr⟩

theorem RunResult.port {J : List Act → State → Prop} {s t : State} (h : RunResult J s t) : t.port = s.port := by
  cases h with
  | reset _ hk => exact hk.port
  | goesOn hk => exact hk.port
  | timedOut _ _ _ _ hr _ _ _ => exact hr.port
  | answered _ _ _ hr => exact hr.port

theorem RunResult.readyTimeout {J : List Act → State → Prop} {s t : State} (h : RunResult J s t) :
    t.readyTimeout = s.readyTimeout := by
  cases h with
  | reset _ hk => exact hk.readyTimeout
  | goesOn hk => exact hk.readyTimeout
  | timedOut _ _ _ _ hr _ _ _ => exact hr.readyTimeout
  | answered _ _ _ hr => exact hr.readyTimeout

/-- Settles O4: a step is a reset, nothing, or a run. -/
theorem stepAnswersAtMostOnce : Obligations.StepAnswersAtMostOnce := by
  have ofRun : ∀ {now later : List Act} {s u : State}, u.trace = s.trace → u.responses = s.responses →
      (∃ events, (run now later u).trace = s.trace ++ events) ∧
        ((run now later u).responses = s.responses ∨ ∃ r, (run now later u).responses = s.responses ++ [r] ∧
          (run now later u).phase = .idle ∧ (run now later u).lastErr = r.status ∧ (run now later u).req = none) := by
    intro now later s u htrace hresp
    have h := Machine.run_result now later u
    obtain ⟨events, hev⟩ := h.trace
    rw [htrace] at hev
    refine ⟨⟨events, hev.symm⟩, h.responses.imp (fun h => h.trans hresp) fun ⟨st, data, hr⟩ => ?_⟩
    exact ⟨⟨st, data⟩, hresp ▸ hr.responses, hr.phase, hr.lastErr, hr.req⟩
  intro s t h
  obtain ⟨_, rfl⟩ | ⟨_, _, rfl⟩ | ⟨_, r, rest, program, _, _, rfl⟩ | ⟨_, now, later, k, tape, drawn, _, rfl⟩ := step_run h
  · refine ⟨?_, .inl rfl⟩
    rw [applyReset_trace]
    split
    · exact ⟨[.cs0], rfl⟩
    · exact ⟨[], (List.append_nil _).symm⟩
  · exact ⟨⟨[], (List.append_nil _).symm⟩, .inl rfl⟩
  · exact ofRun rfl rfl
  · exact ofRun rfl rfl

/-- Settles O5: of the steps of a BUSY block only a run could write the port, and none does. -/
theorem busyHoldsPort : Obligations.BusyHoldsPort := by
  intro s t hb h
  obtain ⟨_, rfl⟩ | ⟨hi, _⟩ | ⟨hi, _⟩ | ⟨_, now, later, k, tape, drawn, _, rfl⟩ := step_run h
  · rfl
  · rw [hb] at hi; cases hi
  · rw [hb] at hi; cases hi
  · exact (Machine.run_result now later _).port

/-- Settles O6: the request latched at the run's start is latched until its response; with no sample of `rst` left no
reset abandons it. -/
theorem idleTakesFirstRequest : Obligations.IdleTakesFirstRequest := by
  intro s t r rest hi hrst hport h
  obtain ⟨hr, _⟩ | ⟨_, hnil, _⟩ | ⟨_, r', rest', program, hport', _, rfl⟩ | ⟨hb, _⟩ := step_run h
  · rw [rstAsserted_of_nil hrst] at hr; cases hr
  · rw [hport] at hnil; cases hnil
  · obtain ⟨rfl, rfl⟩ := List.cons.inj (hport.symm.trans hport')
    have hres := Machine.run_result program [] (begin (accept r (takeRst s)))
    generalize run program [] (begin (accept r (takeRst s))) = t at hres
    refine ⟨hres.port.trans (by simp [hport]), ?_⟩
    cases hres with
    | reset hm _ => simp [hrst] at hm
    | goesOn hk => exact .inl ⟨hk.phase, hk.req, hk.responses⟩
    | timedOut _ _ _ _ hr _ _ _ => exact .inr ⟨hr.phase, hr.req, _, hr.responses⟩
    | answered _ _ _ hr => exact .inr ⟨hr.phase, hr.req, _, hr.responses⟩
  · rw [hi] at hb; cases hb

/-- Settles O7: no run and no reset writes the configuration. -/
theorem timeoutParameterFixed : Obligations.TimeoutParameterFixed := by
  intro s t h
  obtain ⟨_, rfl⟩ | ⟨_, _, rfl⟩ | ⟨_, r, rest, program, _, _, rfl⟩ | ⟨_, now, later, k, tape, drawn, _, rfl⟩ := step_run h
  · rfl
  · rfl
  · exact (Machine.run_result program [] _).readyTimeout
  · exact (Machine.run_result now later _).readyTimeout

end Sys2Proof.Machine

/-! Who writes the cache and PACK_GEOM, the statuses of a response, and the stops of a step. -/

namespace Sys2Proof.Machine

open Sys2Proof.Claims

/-! ### What an instruction's run is -/

/-- An instruction is a run in which only its own end can stand. -/
theorem exec_run {i : Instr} {s t : State} (h : exec i s = .next t) :
    ∃ now later u, t = run now later u ∧ Kept { s with phase := u.phase } u ∧
      (∀ f, .done f ∈ now → f = endOf i) ∧ (requestProgram i = some now ∨ ∃ p, i = preambleInstr p) := by
  cases hprog : requestProgram i with
  | some program =>
    rw [exec_eq_issue hprog] at h
    cases h
    exact ⟨program, [], begin s, rfl, { Kept.refl s with phase := rfl }, fun f hf => done_mem_program hprog hf, .inl rfl⟩
  | none =>
    obtain ⟨p, rfl⟩ := preamble_of_no_program hprog
    rw [exec_preamble] at h
    cases h
    refine ⟨opening p, s.todo, s, rfl, Kept.refl _, ?_, .inr ⟨p, rfl⟩⟩
    cases p <;> simp [opening, startAct]

/-- A run inside the suffixes of its acts meets only acts of it. -/
theorem mem_of_cons_suffix {a : Act} {k now : List Act} (h : a :: k <:+ now) : a ∈ now :=
  h.subset List.mem_cons_self

/-- A request at its end: its instruction's, the acts before it those of its program, or E_ILLEGAL for a violation. -/
theorem Running.at_end {f : Finish} {k : List Act} {u : State} {q : Request} (h : Running (.done f :: k) u)
    (hreq : u.req = some q) :
    (∃ i past, decodeRequest q = .instr i ∧ f = endOf i ∧ requestProgram i = some (past ++ [.done f]) ∧
        u.rx.length = received past 0) ∨
      (∃ v, decodeRequest q = .violation v) ∧ f = .fail .illegal := by
  obtain ⟨rfl, _⟩ := h.at_done
  obtain ⟨r, past, hr, hprog, hrx⟩ := h.program (by simp)
  obtain rfl := Option.some.inj (hr.symm.trans hreq)
  obtain ⟨i, hi, hiprog, hf⟩ | ⟨hv, hf⟩ := done_mem_programOf (f := f) hprog (by simp)
  · exact .inl ⟨i, past, hi, hf, hiprog, hrx⟩
  · exact .inr ⟨hv, hf⟩

/-! ### PACK_GEOM (R28) -/

/-- The end of a request that is no successful pack keeps PACK_GEOM. -/
theorem finish_packGeom_of_ends {i : Instr} {f : Finish} (h : Ends i f) (hi : ∀ d e p, i ≠ .packPixels d e p)
    (s : State) : (finish f s).packGeom = s.packGeom := by
  refine finish_packGeom (fun geom out hf => ?_) s
  subst hf
  cases h
  exact hi _ _ _ rfl

/-- Settles O9: of the ends only a successful pack's writes PACK_GEOM, and of the requests only PACK_PIXELS ends in one. -/
theorem onlyPackWritesGeometry : Obligations.OnlyPackWritesGeometry := by
  constructor
  · intro i s t hrst hi ht
    obtain ⟨now, later, u, rfl, hk, hdone, _⟩ := exec_run ht
    have hres := run_result now later u
    generalize run now later u = t at hres
    cases hres with
    | reset hm _ => simpa [hrst] using hk.rstIn.subset hm
    | goesOn hk' => exact hk'.packGeom.trans hk.packGeom
    | timedOut _ _ _ _ _ _ _ hg => exact hg.trans hk.packGeom
    | @answered f k v st data hmem hk' _ _ =>
      have hf := hdone f (mem_of_cons_suffix hmem)
      rw [finish_packGeom_of_ends (hf ▸ ends_endOf i) hi]
      exact hk'.packGeom.trans hk.packGeom
  · intro s t hinv ht
    obtain ⟨hr, rfl⟩ | ⟨_, rfl⟩ | ⟨q, u, now, later, hq, hreq, hu, hk, rfl⟩ := hinv.running_run ht
    · exact .inr (.inl ⟨rst_mem_of_asserted hr, rfl, rfl⟩)
    · exact .inl rfl
    have hres := hu.run_result
    generalize run now later u = t at hres
    cases hres with
    | reset hm hk' => exact .inr (.inl ⟨hk.rstIn.subset hm, rfl, hk'.responses.trans hk.responses⟩)
    | goesOn hk' => exact .inl (hk'.packGeom.trans hk.packGeom)
    | timedOut _ _ _ _ _ _ _ hg => exact .inl (hg.trans hk.packGeom)
    | @answered f k v st data hv hk' _ hr =>
      by_cases hf : ∀ geom out, f ≠ .pack geom out
      · exact .inl ((finish_packGeom hf _).trans (hk'.packGeom.trans hk.packGeom))
      push Not at hf
      obtain ⟨geom, out, rfl⟩ := hf
      obtain ⟨i, _, hi, hend, _⟩ | ⟨_, hill⟩ := Running.at_end hv (hk'.req.trans hreq)
      · have hends := ends_endOf i
        rw [← hend] at hends
        cases hends with
        | packed x y w g pixels =>
          refine .inr (.inr ⟨q, x, y, w, g, pixels, out, hq, hi, rfl, ?_⟩)
          show v.responses ++ _ = _
          rw [hk'.responses, hk.responses]
      · cases hill

/-! ### The DeviceInfo cache (R26, R194, R195) -/

/-- QUERY_DEVINFO's end, outside every transaction, by the words read: a communication failure, or the whole cache. -/
theorem finish_devInfo {s : State} {ws : List Word} (hws : s.rx.drop 2 = ws) (hcs : s.cs = false) :
    (finish .devInfo s).trace = s.trace ∧
      (((ws.getD 0 0 = 0 ∨ ws.getD 1 0 = 0) ∧ (finish .devInfo s).di = s.di ∧ (finish .devInfo s).diValid = false ∧
          (finish .devInfo s).responses = s.responses ++ [⟨.comm, []⟩]) ∨
        (ws.getD 0 0 ≠ 0 ∧ ws.getD 1 0 ≠ 0 ∧ (finish .devInfo s).di = cacheOf (devInfo ws) ∧
          (finish .devInfo s).diValid = true ∧
          (finish .devInfo s).responses = s.responses ++ [⟨.ok, devInfoData (devInfo ws)⟩])) := by
  have hfail : (devInfo ws).commFailure = true ↔ ws.getD 0 0 = 0 ∨ ws.getD 1 0 = 0 := by
    simp [DevInfo.commFailure, devInfo]
  simp only [finish, hws]
  split
  · next hc =>
    rw [raiseError_released (s := { s with diValid := false }) hcs]
    exact ⟨rfl, .inl ⟨hfail.mp hc, rfl, rfl, rfl⟩⟩
  · next hc =>
    rw [hfail, not_or] at hc
    exact ⟨rfl, .inr ⟨hc.1, hc.2, rfl, rfl, rfl⟩⟩

/-- At QUERY_DEVINFO's end `rx` has the 22 raw words of the trace's last read. -/
theorem Running.devInfo_read {k : List Act} {u : State} {q : Request} (h : Running (.done .devInfo :: k) u)
    (hreq : u.req = some q) :
    decodeRequest q = .instr .queryDevinfo ∧ u.rx = lastRead u.trace ∧ u.rx.length = 22 := by
  obtain ⟨i, past, hi, hend, hprog, hrx⟩ | ⟨_, hill⟩ := h.at_end hreq
  · have hends := ends_endOf i
    rw [← hend] at hends
    cases hends
    have hpast : past = cmdTxn 0x0302 ++ rdTxn 20 := List.append_inj_left' (Option.some.inj hprog).symm rfl
    have hlen : u.rx.length = 22 := by rw [hrx, hpast]; rfl
    refine ⟨hi, h.read.resolve_right fun ⟨hnil, _⟩ => ?_, hlen⟩
    rw [hnil] at hlen
    cases hlen
  · cases hill

/-- Settles O8: of the ends only QUERY_DEVINFO's writes the cache, and it does so from the last read. -/
theorem cacheWrittenOnlyByQueryOrReset : Obligations.CacheWrittenOnlyByQueryOrReset := by
  constructor
  · intro i s t hi hrst ht
    obtain ⟨now, later, u, rfl, hk, hdone, _⟩ := exec_run ht
    have hres := run_result now later u
    generalize run now later u = t at hres
    cases hres with
    | reset hm _ => exact absurd (hk.rstIn.subset hm) (by simp [hrst])
    | goesOn hk' => exact ⟨hk'.di.trans hk.di, hk'.diValid.trans hk.diValid⟩
    | timedOut _ _ _ _ _ hd hv _ => exact ⟨hd.trans hk.di, hv.trans hk.diValid⟩
    | @answered f k v st data hmem hk' _ _ =>
      have hends := ends_endOf i
      rw [← hdone f (mem_of_cons_suffix hmem)] at hends
      have hf : f ≠ .devInfo := by
        rintro rfl
        cases hends
        exact hi rfl
      obtain ⟨hd, hv⟩ := finish_di hf (takeRst v)
      exact ⟨hd.trans (hk'.di.trans hk.di), hv.trans (hk'.diValid.trans hk.diValid)⟩
  · intro s t hinv ht
    have unanswered : ∀ {t : State}, t.responses = s.responses → ∀ (r : Request) (x : Response),
        inProgress s = some r → decodeRequest r = .instr .queryDevinfo →
        t.responses = s.responses ++ [x] → x.status = .timeout := by
      intro t h r x _ _ hx
      exact absurd (h.symm.trans hx) (by simp)
    obtain ⟨hr, rfl⟩ | ⟨_, rfl⟩ | ⟨q, u, now, later, hq, hreq, hu, hk, rfl⟩ := hinv.running_run ht
    · exact .inr (.inl ⟨rst_mem_of_asserted hr, rfl, rfl, rfl⟩)
    · exact .inl ⟨rfl, rfl, unanswered rfl⟩
    have hres := hu.run_result
    generalize run now later u = t at hres
    cases hres with
    | reset hm hk' => exact .inr (.inl ⟨hk.rstIn.subset hm, rfl, rfl, hk'.responses.trans hk.responses⟩)
    | goesOn hk' =>
      exact .inl ⟨hk'.di.trans hk.di, hk'.diValid.trans hk.diValid, unanswered (hk'.responses.trans hk.responses)⟩
    | timedOut _ _ _ _ hr hd hv _ =>
      refine .inl ⟨hd.trans hk.di, hv.trans hk.diValid, fun r x _ _ hx => ?_⟩
      have hx' : u.responses ++ [⟨.timeout, []⟩] = s.responses ++ [x] := hr.responses.symm.trans hx
      rw [hk.responses] at hx'
      rw [← List.singleton_inj.mp (List.append_cancel_left hx')]
    | @answered f k v st data hv hk' _ hr =>
      have hvreq := hk'.req.trans hreq
      by_cases hf : f = .devInfo
      · subst hf
        obtain ⟨hdec, hread, hlen⟩ := Running.devInfo_read hv hvreq
        obtain ⟨_, _, hcs⟩ := Running.at_done hv
        obtain ⟨htrace, hwrites⟩ := finish_devInfo (s := takeRst v) rfl hcs
        refine .inr (.inr ⟨q, (takeRst v).rx.drop 2, hq, hdec, ?_, by simp [hlen], ?_⟩)
        · rw [htrace, takeRst_rx, takeRst_trace, hread]
        · simpa only [takeRst_di, takeRst_responses, hk'.di, hk.di, hk'.responses, hk.responses] using hwrites
      · obtain ⟨hd, hdv⟩ := finish_di hf (takeRst v)
        refine .inl ⟨hd.trans (hk'.di.trans hk.di), hdv.trans (hk'.diValid.trans hk.diValid), fun r x hr' hdec _ => ?_⟩
        obtain rfl := Option.some.inj (hq.symm.trans hr')
        obtain ⟨i, _, hi, hend, _⟩ | ⟨⟨w, hw⟩, _⟩ := Running.at_end hv hvreq
        · cases hdec.symm.trans hi
          exact absurd hend hf
        · cases hdec.symm.trans hw

/-! ### The statuses of a response (R217) -/

/-- An end's statuses are of its operation. -/
theorem endStatuses_subset {i : Instr} {f : Finish} (h : Ends i f) {st : Status} (hst : st ∈ endStatuses f) :
    st ∈ statusesOf i := by
  have ok : ∀ i, Status.ok ∈ statusesOf i := fun i => by cases i <;> exact List.mem_cons_self
  cases h <;> simp only [endStatuses, List.mem_cons, List.not_mem_nil, or_false] at hst
  case devInfo => rcases hst with rfl | rfl <;> simp [statusesOf]
  case unimpl => subst hst; simp [statusesOf]
  case precond => subst hst; simp [statusesOf]
  case size => subst hst; simp [statusesOf]
  all_goals subst hst; exact ok _

/-- Every operation that waits for HRDY can time out. -/
theorem timeout_mem_statusesOf {i : Instr} {program : List Act} {a : Act} (h : requestProgram i = some program)
    (ha : a = .ready ∨ a = .wait) (hmem : a ∈ program) : .timeout ∈ statusesOf i := by
  cases i <;> simp only [requestProgram, reduceCtorEq, Option.some.injEq] at h <;> subst h
  case packPixels => rcases ha with rfl | rfl <;> simp at hmem
  case decodeDevinfo => rcases ha with rfl | rfl <;> simp at hmem
  case queryDevinfo => exact List.mem_cons_of_mem _ (List.mem_cons_of_mem _ List.mem_cons_self)
  all_goals exact List.mem_cons_of_mem _ List.mem_cons_self

/-- A ready-wait of a request in progress: its operation can time out. -/
theorem Running.mayTimeOut {a : Act} {k : List Act} {u : State} {q : Request} (h : Running (a :: k) u)
    (ha : a = .ready ∨ a = .wait) (hreq : u.req = some q) : mayAnswer q .timeout := by
  obtain ⟨r, past, rest, hr, hprog, hst, _⟩ := h.latch
  obtain rfl := Option.some.inj (hr.symm.trans hreq)
  have hmem : ∃ b, (b = .ready ∨ b = .wait) ∧ b ∈ past ++ rest := by
    obtain rfl | ⟨k', _, rfl⟩ := hst
    · exact ⟨a, ha, by simp⟩
    · exact ⟨.ready, .inl rfl, by simp⟩
  obtain ⟨b, hb, hmem⟩ := hmem
  obtain ⟨i, hi, hiprog⟩ | ⟨_, hill⟩ := programOf_eq_some hprog
  · exact .inl ⟨i, hi, timeout_mem_statusesOf hiprog hb hmem⟩
  · rw [hill] at hmem
    rcases hb with rfl | rfl <;> simp at hmem

/-- No end answers E_TIMEOUT: that is the ready-wait's (R101). -/
theorem timeout_not_mem_endStatuses {i : Instr} {f : Finish} (h : Ends i f) : .timeout ∉ endStatuses f := by
  cases h <;> simp [endStatuses]

/-- The status of a request's end is one of its operation's, or E_ILLEGAL for a violation, and never E_TIMEOUT. -/
theorem Running.mayAnswer {f : Finish} {k : List Act} {u : State} {q : Request} (h : Running (.done f :: k) u)
    (hreq : u.req = some q) {st : Status} (hst : st ∈ endStatuses f) : mayAnswer q st ∧ st ≠ .timeout := by
  obtain ⟨i, _, hi, rfl, _⟩ | ⟨hv, rfl⟩ := h.at_end hreq
  · refine ⟨.inl ⟨i, hi, endStatuses_subset (ends_endOf i) hst⟩, ?_⟩
    rintro rfl
    exact timeout_not_mem_endStatuses (ends_endOf i) hst
  · obtain rfl := List.mem_singleton.mp hst
    exact ⟨.inr ⟨hv, rfl⟩, by decide⟩

/-- Settles O55: an end answers with a status of its operation, a ready-wait with E_TIMEOUT. -/
theorem statusesPerOperation : Obligations.StatusesPerOperation := by
  constructor
  · intro i s t ht
    obtain ⟨now, later, u, rfl, hk, hdone, hnow⟩ := exec_run ht
    have hres := run_result now later u
    generalize run now later u = t at hres
    cases hres with
    | reset _ hk' => exact .inl (hk'.responses.trans hk.responses)
    | goesOn hk' => exact .inl (hk'.responses.trans hk.responses)
    | timedOut hmem ha _ hn hr _ _ _ =>
      refine .inr ⟨_, hk.responses ▸ hr.responses, ?_, fun _ => hk.readyTimeout ▸ hn⟩
      obtain hprog | ⟨p, rfl⟩ := hnow
      · exact timeout_mem_statusesOf hprog ha (mem_of_cons_suffix hmem)
      · cases p <;> exact List.mem_cons_of_mem _ List.mem_cons_self
    | @answered f k v st data hmem hk' hst hr =>
      have hends := ends_endOf i
      rw [← hdone f (mem_of_cons_suffix hmem)] at hends
      refine .inr ⟨_, hk.responses ▸ hr.responses, endStatuses_subset hends hst, ?_⟩
      rintro rfl
      exact absurd hst (timeout_not_mem_endStatuses hends)
  · intro s t hinv ht
    obtain ⟨_, rfl⟩ | ⟨_, rfl⟩ | ⟨q, u, now, later, hq, hreq, hu, hk, rfl⟩ := hinv.running_run ht
    · exact .inl rfl
    · exact .inl rfl
    have hres := hu.run_result
    generalize run now later u = t at hres
    cases hres with
    | reset _ hk' => exact .inl (hk'.responses.trans hk.responses)
    | goesOn hk' => exact .inl (hk'.responses.trans hk.responses)
    | timedOut hv ha hk' hn hr _ _ _ =>
      exact .inr ⟨q, _, hq, hk.responses ▸ hr.responses, Running.mayTimeOut hv ha (hk'.req.trans hreq),
        fun _ => hk.readyTimeout ▸ hn⟩
    | @answered f k v st data hv hk' hst hr =>
      obtain ⟨hmay, hne⟩ := Running.mayAnswer hv (hk'.req.trans hreq) hst
      exact .inr ⟨q, _, hq, hk.responses ▸ hr.responses, hmay, fun h => absurd h hne⟩

/-! ### Reset (R32, R240) -/

/-- Settles O1: after reset nothing is in progress and nothing is on the record. -/
theorem resetMeetsInvariant : Obligations.ResetMeetsInvariant :=
  Quiet.blockInv ⟨rfl, rfl, fun _ hr => absurd hr List.not_mem_nil, .inl rfl⟩ rfl rfl rfl rfl rfl

theorem isReset_applyReset (s : State) : IsReset (applyReset s) :=
  ⟨rfl, rfl, rfl, rfl, rfl, rfl, rfl, rfl, rfl, rfl⟩

/-- An asserted sample at a step's start is the whole step (R240). -/
theorem step_reset {s : State} (h : rstAsserted s = true) : step s = .next (applyReset (takeRst s)) := by
  rw [step, if_pos h]

/-- Settles O56: the sample at the step's start resets the block. -/
theorem resetFromAnyState : Obligations.ResetFromAnyState := by
  intro s rst hrst
  refine ⟨_, step_reset (by rw [rstAsserted, hrst]; rfl), isReset_applyReset _, rfl, ?_, rfl, rfl, rfl, ?_⟩
  · rw [applyReset_trace]
    cases h : s.cs <;> simp [h]
  · simp [hrst]

/-! ### Fetching (R210) -/

/-- A step with `rst` released. -/
theorem step_live {s : State} (h : s.rstIn = []) : step s = stepLive s := by
  rw [step, rstAsserted_of_nil h, takeRst_of_nil h]
  rfl

theorem fetch_idle {s : State} {r : Request} {rest : List Request} (hi : s.phase = .idle) (hport : s.port = r :: rest) :
    fetch s = some (.request r) := by
  simp [fetch, hi, hport]

/-- Settles O10: a step executes what its fetch decodes to. -/
theorem stepRunsDecodedInstruction : Obligations.StepRunsDecodedInstruction := by
  intro s f i hrst hf hi
  rw [step_live hrst, stepLive, hf]
  simp only [hi]

/-- Settles O11: the answer to a violation is the bare failure with E_ILLEGAL. -/
theorem violationAnswersIllegal : Obligations.ViolationAnswersIllegal := by
  intro s r rest v hrst hi hcs hport hv
  rw [step_live hrst, stepLive, fetch_idle hi hport]
  simp only [decode, hv, takeUp, rejectIllegal]
  rw [issue_done_fail (s := accept r s) hrst hcs]
  simp [answered, accept, hport]

theorem decodeRequest_of_illFormed {r : Request} (h : r.payload.length ≠ plen r.desc) : decodeRequest r = .badLength := by
  simp [decodeRequest, Request.wellFormed, h]

/-- Settles O13: such a request decodes to the wrong length, which `step` refuses. -/
theorem illFormedRequestRefused : Obligations.IllFormedRequestRefused := by
  intro s r rest hrst hi hport hlen
  rw [step_live hrst, stepLive, fetch_idle hi hport]
  simp only [decode, decodeRequest_of_illFormed hlen]

/-! ### The stops of a step (R71, log entry 20) -/

/-- The request decoder's answer to a payload of the right length: an instruction or a violation. -/
def Decoded.isAnswer (d : Decoded) : Prop := (∃ i, d = .instr i) ∨ ∃ v, d = .violation v

theorem checkField_isAnswer {bad : Bool} {v : Violation} {k : Decoded} (h : Decoded.isAnswer k) :
    Decoded.isAnswer (checkField bad v k) := by
  cases bad with
  | false => exact h
  | true => exact .inr ⟨v, rfl⟩

theorem decodeBody_isAnswer (d : Desc) (payload : List Word) : Decoded.isAnswer (decodeBody d payload) := by
  have instr : ∀ i, Decoded.isAnswer (.instr i) := fun i => .inl ⟨i, rfl⟩
  have plain : ∀ {k}, Decoded.isAnswer k → Decoded.isAnswer (checkPlain d k) := fun h =>
    checkField_isAnswer (checkField_isAnswer h)
  unfold decodeBody
  split
  case h_8 =>
    split
    · exact .inr ⟨_, rfl⟩
    · exact checkField_isAnswer (checkField_isAnswer (instr _))
  case h_11 => exact .inr ⟨_, rfl⟩
  case h_3 => exact plain (checkField_isAnswer (checkField_isAnswer (instr _)))
  case h_10 => exact plain (checkField_isAnswer (checkField_isAnswer (instr _)))
  all_goals exact plain (checkField_isAnswer (instr _))

theorem decodeRequest_isAnswer {r : Request} (h : r.wellFormed = true) : Decoded.isAnswer (decodeRequest r) := by
  rw [decodeRequest, if_pos h]
  exact checkField_isAnswer (decodeBody_isAnswer _ _)

/-- What a BUSY block fetches is a preamble's word. -/
theorem fetch_busy {s : State} {f : Fetched} (hb : s.phase = .busy) (hf : fetch s = some f) :
    ∃ p, f = .wire (preambleWord p) := by
  simp only [fetch, hb] at hf
  split at hf <;> cases hf
  · exact ⟨.cmd, rfl⟩
  · exact ⟨.wr, rfl⟩
  · exact ⟨.rd, rfl⟩

/-- A step that takes up what decodes to an instruction or a violation gives a next state. -/
theorem stepLive_of_isAnswer {s : State} {f : Fetched} (hf : fetch s = some f) (hd : Decoded.isAnswer (decode f)) :
    ∃ t, stepLive s = .next t := by
  rw [stepLive, hf]
  obtain ⟨i, hi⟩ | ⟨v, hv⟩ := hd
  · obtain ⟨t, ht⟩ := exec_next i (takeUp f s)
    exact ⟨t, by simp only [hi, ht]⟩
  · exact ⟨_, by simp only [hv]; rfl⟩

/-- A BUSY block of the invariant has acts left, so its step never stops. -/
theorem BlockInv.stepLive_busy {s : State} (h : BlockInv s) (hb : s.phase = .busy) : ∃ t, stepLive s = .next t := by
  cases hf : fetch s with
  | none =>
    have htodo : s.todo ≠ [] := fun hnil => (hnil ▸ h.running hb).not_nil
    refine ⟨resume s, ?_⟩
    simp [stepLive, hf, proceed, hb, htodo]
  | some f =>
    obtain ⟨p, rfl⟩ := fetch_busy hb hf
    refine stepLive_of_isAnswer hf (.inl ⟨preambleInstr p, ?_⟩)
    simp only [decode, decodeWire_preamble]

/-- With well-formed requests at the port an IDLE block's step never stops. -/
theorem stepLive_idle {s : State} (hi : s.phase = .idle) (hport : PortOk s) : ∃ t, stepLive s = .next t := by
  cases hp : s.port with
  | nil => exact ⟨s, by simp [stepLive, fetch, hi, hp, proceed]⟩
  | cons r rest =>
    exact stepLive_of_isAnswer (fetch_idle hi hp) (decodeRequest_isAnswer (hport r (by simp [hp])))

/-- A step takes at most the first request off the port. -/
theorem step_port {s t : State} (h : step s = .next t) : t.port <:+ s.port := by
  obtain ⟨_, rfl⟩ | ⟨_, _, rfl⟩ | ⟨_, r, rest, program, _, _, rfl⟩ | ⟨_, now, later, k, tape, drawn, _, rfl⟩ := step_run h
  · exact List.suffix_rfl
  · exact List.suffix_rfl
  · rw [(run_result program [] _).port]
    exact List.tail_suffix _
  · rw [(run_result now later _).port]
    exact List.suffix_rfl

/-- Settles O3: a BUSY block has acts left, and an IDLE one's request decodes. -/
theorem invariantStatesStep : Obligations.InvariantStatesStep := by
  intro s hinv hport
  have hstep : ∃ t, step s = .next t := by
    by_cases hr : rstAsserted s = true
    · exact ⟨_, step_reset hr⟩
    rw [step, if_neg hr]
    cases hphase : s.phase with
    | idle => exact stepLive_idle (s := Machine.takeRst s) hphase hport
    | busy => exact hinv.takeRst.stepLive_busy hphase
  obtain ⟨t, ht⟩ := hstep
  exact ⟨t, ht, fun r hr => hport r ((step_port ht).subset hr)⟩

end Sys2Proof.Machine

/-! The two encodings (30_encoding.md): the round trips of the request decoder, its violations, and the wire words. -/

namespace Sys2Proof.Machine

open Sys2Proof.Claims

/-! ### Rows with a wire word (R61, R63) -/

/-- A wire word decodes to the row it is listed for. -/
theorem decodeWire_of_wireWord {i : Instr} {w : Word} (h : wireWord i = some w) : decodeWire w = some i := by
  cases i <;> simp only [wireWord, Option.some.injEq, reduceCtorEq] at h <;> subst h <;> decide

/-- The listed opcodes and no others are words of a row. -/
theorem wireWord_of_listed {w : Word} (h : w ∈ listedOpcodes) : wireWord (commandInstr w) = some w := by
  have all : listedOpcodes.all (fun w => wireWord (commandInstr w) == some w) = true := by decide
  simpa using List.all_eq_true.mp all w h

/-- Settles O16: each listed word and its row determine each other. -/
theorem wireWordsDetermineRows : Obligations.WireWordsDetermineRows := by
  refine fun i w => ⟨fun h => ?_, decodeWire_of_wireWord⟩
  have word : ∀ n : Nat, w.toNat = n → w = BitVec.ofNat 16 n := by
    rintro n rfl
    simp
  unfold decodeWire at h
  split at h
  · next hw => cases h; exact congrArg some (word _ hw).symm
  · next hw => cases h; exact congrArg some (word _ hw).symm
  · next hw => cases h; exact congrArg some (word _ hw).symm
  · split at h
    · next hl =>
      cases h
      exact wireWord_of_listed (by simpa using hl)
    · cases h

/-- Settles O17, by evaluating the decoder on the seven words. -/
theorem sampleWordsDecode : Obligations.SampleWordsDecode := by
  unfold Obligations.SampleWordsDecode
  decide

/-! ### The command opcodes (R63, R64) -/

/-- The row of a listed opcode is the table's. -/
theorem commandInstr_of_listed {c : Word} (h : c ∈ listedOpcodes) : (commandInstr c, c) ∈ commandRows := by
  have all : listedOpcodes.all (fun c => commandRows.contains (commandInstr c, c)) = true := by decide
  simpa using List.all_eq_true.mp all c h

/-- An opcode that R63 does not list is a SEND_CMD of itself (R64). -/
theorem commandInstr_of_unlisted {c : Word} (h : c ∉ listedOpcodes) : commandInstr c = .sendCmd c := by
  have hne : ∀ n : Nat, BitVec.ofNat 16 n ∈ listedOpcodes → c.toNat ≠ n := by
    rintro n hn rfl
    rw [BitVec.ofNat_toNat, BitVec.setWidth_eq] at hn
    exact h hn
  unfold commandInstr
  split
  case h_22 => rfl
  all_goals exact absurd ‹c.toNat = _› (hne _ (by decide))

/-- A table's row is the row of its opcode, is well-formed, and is encoded as the opcode's SEND_CMD. -/
theorem commandRow_encode : ∀ row ∈ commandRows,
    commandInstr row.2 = row.1 ∧ row.1.wellFormed = true ∧ encode row.1 = .request (cmdRequest row.2) := by
  decide

/-- An opcode's row is well-formed, and its encoding is the opcode's SEND_CMD (log entry 7). -/
theorem commandInstr_encode (c : Word) :
    (commandInstr c).wellFormed = true ∧ encode (commandInstr c) = .request (cmdRequest c) := by
  by_cases h : c ∈ listedOpcodes
  · exact (commandRow_encode _ (commandInstr_of_listed h)).2
  · rw [commandInstr_of_unlisted h]
    exact ⟨by simpa [Instr.wellFormed] using h, rfl⟩

/-! ### Decoding an encoding -/

/-- A well-formed request of R80's descriptor is decoded by its operation. -/
theorem decodeRequest_mkDesc {op : BitVec 4} {bpp : BitVec 3} {e : BitVec 1} {arg : Word} {len : Word32}
    {payload : List Word} (h : Request.wellFormed ⟨mkDesc op bpp e arg len, payload⟩ = true) :
    decodeRequest ⟨mkDesc op bpp e arg len, payload⟩ = decodeBody (mkDesc op bpp e arg len) payload := by
  simp [decodeRequest, h]

/-- The SEND_CMD request of an opcode decodes to the opcode's row. -/
theorem decodeRequest_cmdRequest (c : Word) : decodeRequest (cmdRequest c) = .instr (commandInstr c) := by
  rw [cmdRequest, plainRequest, decodeRequest_mkDesc (by simp [Request.wellFormed, plen])]
  simp [decodeBody]

/-- Bytes in payload entries pass R75's check. -/
theorem all_fitsByte_setWidth (bs : List Byte) : (bs.map (BitVec.setWidth 16)).all fitsByte = true := by
  simp [List.all_eq_true]

/-- Settles O14, row by row of the table. -/
theorem decodeEncodeRoundTrip : Obligations.DecodeEncodeRoundTrip := by
  intro i hwf
  have body : ∀ {op bpp e arg len payload}, Laws.PortRequest.Statement i →
      encode i = .request ⟨mkDesc op bpp e arg len, payload⟩ →
      decode (encode i) = decodeBody (mkDesc op bpp e arg len) payload := by
    intro op bpp e arg len payload hport henc
    rw [henc, decode, decodeRequest_mkDesc (hport hwf _ henc)]
  cases i
  case sendCmd c =>
    have hc : c ∉ listedOpcodes := by simpa [Instr.wellFormed] using hwf
    exact (decodeRequest_cmdRequest c).trans (congrArg _ (commandInstr_of_unlisted hc))
  case writeData ws => rw [body (Laws.PortRequest.writeData ws) rfl]; simp [decodeBody]
  case writeBytes bs => rw [body (Laws.PortRequest.writeBytes bs) rfl]; simp [decodeBody, all_fitsByte_setWidth, Function.comp_def, -List.all_map]
  case readData n => rw [body (Laws.PortRequest.readData n) rfl]; simpa [decodeBody] using Laws.PortRequest.len hwf
  case writeReg a v => rw [body (Laws.PortRequest.writeReg a v) rfl]; simp [decodeBody]
  case readReg a => rw [body (Laws.PortRequest.readReg a) rfl]; simp [decodeBody]
  case waitDpyReady a => rw [body (Laws.PortRequest.waitDpyReady a) rfl]; simp [decodeBody]
  case packPixels d e p =>
    rw [Instr.wellFormed, Bool.and_eq_true] at hwf
    rw [body (Laws.PortRequest.packPixels d e p) rfl]
    simp [decodeBody, hwf.2]
  case decodeDevinfo ws => rw [body (Laws.PortRequest.decodeDevinfo ws) rfl]; simp [decodeBody]
  case queryDevinfo => rw [body Laws.PortRequest.queryDevinfo rfl]; simp [decodeBody]
  case preambleCmd => decide
  case preambleWr => decide
  case preambleRd => decide
  all_goals exact decodeRequest_cmdRequest _

/-! ### Encoding what decodes -/

/-- A descriptor whose RSVD field is 0 is R80's formula of its fields. -/
theorem mkDesc_fields {d : Desc} (h : Desc.rsvd d = 0) :
    d = mkDesc (Desc.op d) (Desc.bpp d) (Desc.endian d) (Desc.arg16 d) (Desc.len32 d) := by
  have hr : ∀ j, j < 8 → d.getLsbD (8 + j) = false := by
    intro j hj
    have := congrArg (·.getLsbD j) h
    simpa [Desc.rsvd, BitVec.getLsbD_extractLsb', hj] using this
  rw [mkDesc_eq]
  refine BitVec.eq_of_getLsbD_eq fun i hi => ?_
  have field : ∀ first width j, first + j = i → j < width →
      d.getLsbD i = (decide (j < width) && d.getLsbD (first + j)) := by
    rintro first width j rfl hj
    simp [hj]
  simp only [BitVec.getLsbD_append, Desc.op, Desc.bpp, Desc.endian, Desc.arg16, Desc.len32, BitVec.getLsbD_extractLsb']
  split_ifs with h1 h2 h3 h4 h5
  · exact field 0 4 _ (by omega) h1
  · exact field 4 3 _ (by omega) h2
  · exact field 7 1 _ (by omega) h3
  · rw [BitVec.getLsbD_zero, ← hr _ h4]
    congr 1
    omega
  · exact field 16 16 _ (by omega) h5
  · exact field 32 32 _ (by omega) (by omega)

theorem checkPlain_eq_instr {d : Desc} {k : Decoded} {i : Instr} :
    checkPlain d k = .instr i ↔ Desc.bpp d = 0 ∧ Desc.endian d = 0 ∧ k = .instr i := by
  simp [checkPlain, checkField_eq_instr]

/-- A field that has a depth has its code. -/
theorem depthCode_of_depthOfCode {c : BitVec 3} {depth : Depth} (h : depthOfCode c = some depth) :
    depthCode depth = c := by
  revert c
  cases depth <;> decide

theorem endianBit_endianOfBit (b : BitVec 1) : endianBit (endianOfBit b) = b := by
  revert b
  decide

theorem map_setWidth_lo {ws : List Word} (h : ws.all fitsByte = true) : (ws.map lo).map (BitVec.setWidth 16) = ws := by
  rw [List.map_map]
  exact (List.map_congr_left fun w hw => setWidth_lo (List.all_eq_true.mp h w hw)).trans (List.map_id ws)

theorem ofNat_len32 {d : Desc} {n : Nat} (h : n = (Desc.len32 d).toNat) : BitVec.ofNat 32 n = Desc.len32 d := by
  simp [h]

theorem fitsLen32_len32 {d : Desc} {n : Nat} (h : n = (Desc.len32 d).toNat) : fitsLen32 n = true := by
  have := (Desc.len32 d).isLt
  simpa [fitsLen32, h] using this

/-- A request whose fields are those of R80's formula is the request of the formula. -/
theorem request_of_fields {d : Desc} {p p' : List Word} {op : BitVec 4} {bpp : BitVec 3} {e : BitVec 1} {arg : Word} {n : Nat}
    (hrsvd : Desc.rsvd d = 0) (hop : Desc.op d = op) (hbpp : Desc.bpp d = bpp) (he : Desc.endian d = e)
    (harg : Desc.arg16 d = arg) (hlen : BitVec.ofNat 32 n = Desc.len32 d) (hp : p' = p) :
    Fetched.request ⟨mkDesc op bpp e arg (BitVec.ofNat 32 n), p'⟩ = .request ⟨d, p⟩ := by
  rw [hlen, ← hop, ← hbpp, ← he, ← harg, ← mkDesc_fields hrsvd, hp]

/-- Settles O15, operation by operation: the checks that let an instruction through leave the fields R80's formula has. -/
theorem encodeDecodeRoundTrip : Obligations.EncodeDecodeRoundTrip := by
  rintro ⟨d, p⟩ i h
  unfold decodeRequest at h
  split at h
  case isFalse => cases h
  next hwf =>
  obtain ⟨hrsvd, h⟩ := checkField_eq_instr.mp h
  replace hrsvd : Desc.rsvd d = 0 := by simpa using hrsvd
  replace hwf : p.length = plen d := by simpa [Request.wellFormed] using hwf
  have op : ∀ {n : Nat}, (Desc.op d).toNat = n → Desc.op d = BitVec.ofNat 4 n := by
    rintro _ rfl
    simp
  have nil : p.length = 0 → [] = p := fun h => (List.length_eq_zero_iff.mp h).symm
  unfold plen at hwf
  unfold decodeBody at h
  split at h <;>
    simp only [checkPlain_eq_instr, checkField_eq_instr, bne_eq_false_iff_eq, Bool.not_eq_false', Decoded.instr.injEq,
      reduceCtorEq] at h
  · next hop =>
    obtain ⟨hbpp, he, hlen, rfl⟩ := h
    simp only [hop] at hwf
    obtain ⟨hw, henc⟩ := commandInstr_encode (Desc.arg16 d)
    exact ⟨henc.trans (request_of_fields hrsvd (op hop) hbpp he rfl (by simp [hlen]) (nil hwf)), hw⟩
  · next hop =>
    obtain ⟨hbpp, he, harg, rfl⟩ := h
    simp only [hop] at hwf
    exact ⟨request_of_fields hrsvd (op hop) hbpp he harg (ofNat_len32 hwf) rfl, fitsLen32_len32 hwf⟩
  · next hop =>
    obtain ⟨hbpp, he, harg, hall, rfl⟩ := h
    simp only [hop] at hwf
    exact ⟨request_of_fields hrsvd (op hop) hbpp he harg (by simpa using ofNat_len32 hwf) (map_setWidth_lo hall),
      by simpa [Instr.wellFormed] using fitsLen32_len32 hwf⟩
  · next hop =>
    obtain ⟨hbpp, he, harg, rfl⟩ := h
    simp only [hop] at hwf
    exact ⟨request_of_fields hrsvd (op hop) hbpp he harg (ofNat_len32 rfl) (nil hwf), fitsLen32_len32 rfl⟩
  · next hop =>
    obtain ⟨hbpp, he, hlen, rfl⟩ := h
    simp only [hop, hlen] at hwf
    obtain ⟨v, rfl⟩ := List.length_eq_one_iff.mp hwf
    exact ⟨request_of_fields hrsvd (op hop) hbpp he rfl hlen.symm rfl, rfl⟩
  · next hop =>
    obtain ⟨hbpp, he, hlen, rfl⟩ := h
    simp only [hop] at hwf
    exact ⟨request_of_fields hrsvd (op hop) hbpp he rfl hlen.symm (nil hwf), rfl⟩
  · next hop =>
    obtain ⟨hbpp, he, hlen, rfl⟩ := h
    simp only [hop] at hwf
    exact ⟨request_of_fields hrsvd (op hop) hbpp he rfl hlen.symm (nil hwf), rfl⟩
  · next hop =>
    simp only [hop] at hwf
    split at h
    · cases h
    next depth hdepth =>
    simp only [checkField_eq_instr, bne_eq_false_iff_eq, Bool.not_eq_false', Decoded.instr.injEq] at h
    obtain ⟨harg, hall, rfl⟩ := h
    refine ⟨request_of_fields hrsvd (op hop) (depthCode_of_depthOfCode hdepth).symm
      (endianBit_endianOfBit _).symm harg (ofNat_len32 hwf) rfl, ?_⟩
    rw [Instr.wellFormed, fitsLen32_len32 hwf, hall]
    rfl
  · next hop =>
    obtain ⟨hbpp, he, harg, rfl⟩ := h
    simp only [hop] at hwf
    exact ⟨request_of_fields hrsvd (op hop) hbpp he harg (ofNat_len32 hwf) rfl, fitsLen32_len32 hwf⟩
  · next hop =>
    obtain ⟨hbpp, he, harg, hlen, rfl⟩ := h
    simp only [hop] at hwf
    exact ⟨request_of_fields hrsvd (op hop) hbpp he harg hlen.symm (nil hwf), rfl⟩

/-! ### The encoding violations (R73, R75) -/

theorem checkPlain_eq_violation {d : Desc} {k : Decoded} :
    (∃ v, checkPlain d k = .violation v) ↔ (Desc.bpp d ≠ 0 ∨ Desc.endian d ≠ 0) ∨ ∃ v, k = .violation v := by
  simp [checkPlain, checkField_eq_violation, or_assoc]

/-- The reserved codes of BPP are those from 5 up (R74). -/
theorem depthOfCode_eq_none {c : BitVec 3} : depthOfCode c = none ↔ 5 ≤ c.toNat := by
  revert c
  decide

theorem all_fitsByte_eq_false {ws : List Word} : ws.all fitsByte = false ↔ ∃ w ∈ ws, 256 ≤ w.toNat := by
  simp [fitsByte]

/-- Settles O12, operation by operation. -/
theorem violationsAreThoseListed : Obligations.ViolationsAreThoseListed := by
  rintro ⟨d, p⟩ hwf
  have hlt := (Desc.op d).isLt
  have op : ∀ c : BitVec 4, Desc.op d = c ↔ (Desc.op d).toNat = c.toNat := fun c => BitVec.toNat_inj.symm
  have noViolation : ∀ i, ¬ ∃ v, Decoded.instr i = .violation v := by simp
  rw [decodeRequest, if_pos hwf]
  simp only [checkField_eq_violation, bne_iff_ne, op, ne_eq]
  unfold decodeBody
  split
  case h_8 hop =>
    have hcode := depthOfCode_eq_none (c := Desc.bpp d)
    cases hdepth : depthOfCode (Desc.bpp d) with
    | none => simp [hop, hcode.mp hdepth]
    | some depth =>
      have hbpp : ¬ 5 ≤ (Desc.bpp d).toNat := fun h => by rw [hcode.mpr h] at hdepth; cases hdepth
      simp only [checkField_eq_violation, noViolation, hop, hbpp, bne_iff_ne, Bool.not_eq_true', all_fitsByte_eq_false]
      simp
  case h_11 =>
    have : (Desc.op d).toNat = 0 ∨ 11 ≤ (Desc.op d).toNat := by grind
    simp [this]
  all_goals
    next hop =>
    simp only [checkPlain_eq_violation, checkField_eq_violation, noViolation, hop, bne_iff_ne, Bool.not_eq_true',
      all_fitsByte_eq_false]
    simp [or_assoc]

/-! ### The pseudo-instructions (R81) -/

theorem decodeRequest_regwRequest (a v : Word) : decodeRequest (regwRequest a v) = .instr (.writeReg a v) :=
  decodeEncodeRoundTrip (.writeReg a v) rfl

theorem decodeRequest_waitDpyRequest (a : Word) : decodeRequest (waitDpyRequest a) = .instr (.waitDpyReady a) :=
  decodeEncodeRoundTrip (.waitDpyReady a) rfl

/-- Settles O60: each request of an expansion is the encoding of its instruction. -/
theorem pseudoInstructionsDecode : Obligations.PseudoInstructionsDecode := by
  intro a32
  simp only [Pseudo.expand, List.map_cons, List.map_nil, decodeRequest_cmdRequest, decodeRequest_regwRequest,
    decodeRequest_waitDpyRequest, and_true]
  exact ⟨rfl, rfl, rfl⟩

end Sys2Proof.Machine

/-! Completion (R104 to R107, R150, R152, R194): what a request does when every ready-wait sees a 1 in time. -/

namespace Sys2Proof.Machine

open Sys2Proof.Claims

/-! ### Bus traffic, transaction after transaction (R154) -/

/-- The acts `acts` go through when `n` ready-waits see a 1 in time: they exchange `words` words, leave `rx` and chip-select
released, and put their events on the trace, both by the words received. -/
structure Sends (acts : List Act) (n words : Nat) (rx : (Nat → Word) → List Word → List Word)
    (events : (Nat → Word) → List Event) : Prop where
  through : ∀ zs rest s, HrdyAnswers n zs rest s → ∀ now later, run (acts ++ now) later s =
    run now later (onWire rest (2 * words) false (rx (misoWordAt s) s.rx) (events (misoWordAt s)) s)

/-- The samples of the first ready-waits, and those of the others. -/
theorem HrdyAnswers.split {m n : Nat} {zs : List Nat} {rest : List Bool} {s : State} (h : HrdyAnswers (m + n) zs rest s) :
    HrdyAnswers m (zs.take m) (waits (zs.drop m) ++ rest) s ∧ (zs.drop m).length = n ∧
      Patient s.readyTimeout (zs.drop m) := by
  have hzs : zs = zs.take m ++ zs.drop m := (List.take_append_drop m zs).symm
  have hin := h.inTime
  rw [hzs] at hin
  refine ⟨⟨h.noReset, ?_, ?_, hin.left⟩, ?_, hin.right⟩
  · simp [h.count]
  · rw [← List.append_assoc, ← waits_append, ← hzs]
    exact h.samples
  · simp [h.count]

theorem Sends.append {a b : List Act} {m n x y : Nat} {rxa rxb : (Nat → Word) → List Word → List Word}
    {ea eb : (Nat → Word) → List Event} (ha : Sends a m x rxa ea) (hb : Sends b n y rxb eb) :
    Sends (a ++ b) (m + n) (x + y) (fun i r => rxb (fun k => i (x + k)) (rxa i r))
      (fun i => ea i ++ eb fun k => i (x + k)) := by
  refine ⟨fun zs rest s h now later => ?_⟩
  obtain ⟨h1, hcount, hin⟩ := h.split
  have hb' := hb.through (zs.drop m) rest (onWire (waits (zs.drop m) ++ rest) (2 * x) false (rxa (misoWordAt s) s.rx)
    (ea (misoWordAt s)) s) ⟨h1.noReset, hcount, rfl, hin⟩
  rw [List.append_assoc, ha.through _ _ s h1, hb', misoWordAt_onWire, onWire_onWire, Nat.mul_add]
  rfl

theorem sends_cmdTxn (c : Word) : Sends (cmdTxn c) 2 2 (fun _ r => r) (cmdEvents · c) :=
  ⟨fun zs rest s h => run_cmdTxn c zs rest s h.noReset h.count h.samples h.inTime⟩

theorem sends_wrTxn (ws : List Word) :
    Sends (wrTxn ws) (ws.length + 1) (ws.length + 1) (fun _ r => r) (wrEvents · ws) :=
  ⟨fun zs rest s h => run_wrTxn ws zs rest s h.noReset h.count h.samples h.inTime⟩

theorem sends_rdTxn (n : Nat) :
    Sends (rdTxn n) (n + 2) (n + 2) (fun i _ => i 0 :: i 1 :: keptWords i n) (rdEvents · n) :=
  ⟨fun zs rest s h => run_rdTxn n zs rest s h.noReset h.count h.samples h.inTime⟩

/-- The bus part of READ_REG and of a display-ready poll (R152, R156). -/
theorem sends_readRegTxns (a : Word) :
    Sends (readRegTxns a) 7 7 (fun i _ => [i 4, i 5, i 6]) (pollEvents · a) :=
  ((sends_cmdTxn 0x0010).append (sends_wrTxn [a])).append (sends_rdTxn 1)

/-! ### A request, from its start to its end -/

/-- A request whose traffic goes through comes to its end. -/
theorem Sends.exec_finish {bus : List Act} {n words : Nat} {rx : (Nat → Word) → List Word → List Word}
    {events : (Nat → Word) → List Event} (hb : Sends bus n words rx events) {i : Instr} {f : Finish}
    (hprog : requestProgram i = some (bus ++ [.done f])) {zs : List Nat} {rest : List Bool} {s : State}
    (h : HrdyAnswers n zs rest s) :
    exec i s = .next (finish f
      (onWire rest (2 * words) false (rx (misoWordAt s) []) (events (misoWordAt s)) (begin s))) := by
  rw [exec_eq_issue hprog, issue, hb.through zs rest (begin s) ⟨h.noReset, h.count, h.samples, h.inTime⟩,
    run_done (s := onWire _ _ _ _ _ (begin s)) h.noReset]
  rfl

/-- A request that ends in an OK response. -/
theorem Sends.exec_ok {bus : List Act} {n words : Nat} {rx : (Nat → Word) → List Word → List Word}
    {events : (Nat → Word) → List Event} (hb : Sends bus n words rx events) {i : Instr} {data : List Word}
    (hprog : requestProgram i = some (bus ++ [.done (.ok data)])) {zs : List Nat} {rest : List Bool} {s : State}
    (h : HrdyAnswers n zs rest s) :
    exec i s = .next (answered .ok data (events (misoWordAt s)) (afterWire rest (2 * words) s)) :=
  hb.exec_finish hprog h

/-- A request that answers the words of its read. -/
theorem Sends.exec_readWords {bus : List Act} {n words : Nat} {rx : (Nat → Word) → List Word → List Word}
    {events : (Nat → Word) → List Event} (hb : Sends bus n words rx events) {i : Instr}
    (hprog : requestProgram i = some (bus ++ [.done .readWords])) {zs : List Nat} {rest : List Bool} {s : State}
    (h : HrdyAnswers n zs rest s) :
    exec i s = .next (answered .ok ((rx (misoWordAt s) []).drop 2) (events (misoWordAt s))
      (afterWire rest (2 * words) s)) :=
  hb.exec_finish hprog h

/-! ### The framer (R104 to R107) -/

/-- Settles O18: the program is the command transaction and an OK response. -/
theorem sendCmdAnswers : Obligations.SendCmdAnswers :=
  fun c _ _ _ h => (sends_cmdTxn c).exec_ok rfl h

/-- A row of R63 has SEND_CMD's program of its opcode. -/
theorem requestProgram_commandRow : ∀ row ∈ commandRows, requestProgram row.1 = some (sendCmdProgram row.2) := by
  decide

/-- Settles O19: each row has SEND_CMD's program. -/
theorem commandRowsAnswer : Obligations.CommandRowsAnswer :=
  fun row hrow _ _ _ h => (sends_cmdTxn row.2).exec_ok (requestProgram_commandRow row hrow) h

/-- Settles O20: with a word or more, the program is the write transaction and an OK response. -/
theorem writeDataAnswers : Obligations.WriteDataAnswers := by
  intro ws s zs rest hne h
  have hprog : requestProgram (.writeData ws) = some (wrTxn ws ++ [.done (.ok [])]) := by
    simp [requestProgram, writeDataProgram, hne]
  exact (sends_wrTxn ws).exec_ok hprog h

/-- Settles O24: of the words read the first two are dropped. -/
theorem readDataAnswers : Obligations.ReadDataAnswers := by
  intro n s zs rest hn h
  have hprog : requestProgram (.readData n) = some (rdTxn n ++ [.done .readWords]) := by
    simp [requestProgram, readDataProgram, hn.ne']
  exact (sends_rdTxn n).exec_readWords hprog h

/-- The opening of a transaction on the samples of one ready-wait. -/
theorem run_opening_of_hrdyAnswers {z : Nat} {zs : List Nat} {rest : List Bool} {s : State} {n : Nat}
    (h : HrdyAnswers n (z :: zs) rest s) (p : Preamble) (now later : List Act) :
    run (opening p ++ now) later s = run now later (onWire (waits zs ++ rest) 2 true
      (if p = .rd then [misoWordAt s 0] else s.rx) [.cs1, .rdy, .x16 (preambleWord p) (misoWordAt s 0)] s) := by
  have hq := h.samples
  rw [waits_cons, List.append_assoc, List.cons_append] at hq
  exact run_opening h.noReset hq h.inTime.head p now later

/-- Settles O25: the opening alone, and the program that was there is left to do. -/
theorem preamblesOpenTransactions : Obligations.PreamblesOpenTransactions := by
  intro p s zs rest h
  obtain ⟨z, rfl⟩ := List.length_eq_one_iff.mp h.count
  have hopen := run_opening_of_hrdyAnswers h p [] s.todo
  rw [List.append_nil] at hopen
  rw [exec_preamble, openTxn, hopen]
  rfl

/-- A ready-wait that sees a 1 in time, after a program's events. -/
theorem run_ready_onWire {s : State} (h : s.rstIn = []) {z : Nat} {rest : List Bool}
    (hp : ∀ k, s.readyTimeout = some k → z < k) (n : Nat) (c : Bool) (x : List Word) (e : List Event)
    (now later : List Act) :
    run (.ready :: now) later (onWire (waits [z] ++ rest) n c x e s) =
      run now later (onWire rest n c x (e ++ [.rdy]) s) := by
  rw [run_ready_pass (s := onWire (waits [z] ++ rest) n c x e s) (z := z) (rest := rest) h
    (by simp [onWire, waits_cons]) hp]
  simp [onWire, afterWire]

/-- WRITE_BYTES' program: the opening, what comes after its preamble, chip-select's release and an OK response. -/
theorem exec_writeBytes_opening {bs : List Byte} {body : List Act} {z : Nat} {zs : List Nat} {rest : List Bool} {s : State}
    {n : Nat} (hprog : writeBytesProgram bs = opening .wr ++ (body ++ [.csOff, .done (.ok [])]))
    (h : HrdyAnswers n (z :: zs) rest s) :
    exec (.writeBytes bs) s = .next (run (body ++ [.csOff, .done (.ok [])]) []
      (onWire (waits zs ++ rest) 2 true [] [.cs1, .rdy, .x16 0x0000 (misoWordAt s 0)] (begin s))) := by
  have hbegin : HrdyAnswers n (z :: zs) rest (begin s) := ⟨h.noReset, h.count, h.samples, h.inTime⟩
  rw [exec_eq_issue (i := .writeBytes bs) rfl, issue, hprog, run_opening_of_hrdyAnswers hbegin]
  rfl

/-- Chip-select's release and an OK response, after a program's events. -/
theorem run_csOff_ok {s : State} (h : s.rstIn = []) (rest : List Bool) (n : Nat) (c : Bool) (x : List Word)
    (e : List Event) : run [.csOff, .done (.ok [])] [] (onWire rest n c x e (begin s)) =
      answered .ok [] (e ++ [.cs0]) (afterWire rest n s) := by
  rw [run_csOff_onWire (s := begin s) h, run_done (s := onWire _ _ _ _ _ (begin s)) h]
  rfl

/-- Settles O23: the preamble and chip-select's release, and nothing between them. -/
theorem writeBytesEmptyAnswers : Obligations.WriteBytesEmptyAnswers := by
  intro s zs rest h
  obtain ⟨z, rfl⟩ := List.length_eq_one_iff.mp h.count
  rw [exec_writeBytes_opening (bs := []) (body := []) rfl h, List.nil_append, run_csOff_ok h.noReset]
  rfl

/-- Settles O22: the preamble, one ready-wait, and the bytes. -/
theorem writeBytesAnswers : Obligations.WriteBytesAnswers := by
  intro bs s zs rest hne h
  obtain ⟨z0, z1, rfl⟩ := List.length_eq_two.mp h.count
  have hprog : writeBytesProgram bs = opening .wr ++ (.ready :: bs.map Act.x8 ++ [.csOff, .done (.ok [])]) := by
    simp [writeBytesProgram, wrBTxn, hne]
  rw [exec_writeBytes_opening hprog h, List.cons_append,
    run_ready_onWire (s := begin s) h.noReset h.inTime.tail.head, run_bytes bs (onWire _ _ _ _ _ (begin s)) h.noReset rfl,
    onWire_onWire, misoByteAt_onWire, run_csOff_ok h.noReset]
  simp only [wrBytesEvents, if_neg hne]
  rfl

/-! ### The bytes on MOSI (R30, R45) -/

@[simp] theorem mosiBytes_append (t u : List Event) : mosiBytes (t ++ u) = mosiBytes t ++ mosiBytes u :=
  List.flatMap_append

/-- A list by its entries. -/
theorem map_getD_range {α : Type} (l : List α) (d : α) : (List.range l.length).map (l.getD · d) = l := by
  refine List.ext_getElem (by simp) fun k h1 h2 => ?_
  simp [List.getD_eq_getElem?_getD, h2]

theorem mosiBytes_cmdEvents (i : Nat → Word) (c : Word) : mosiBytes (cmdEvents i c) = [0x60, 0x00, hi c, lo c] := rfl

theorem mosiBytes_wrEvents (i : Nat → Word) (ws : List Word) :
    mosiBytes (wrEvents i ws) = [0x00, 0x00] ++ ws.flatMap fun w => [hi w, lo w] := by
  have hwords : mosiBytes ((List.range ws.length).flatMap fun k => [.rdy, .x16 (ws.getD k 0) (i (k + 1))]) =
      ws.flatMap fun w => [hi w, lo w] := calc
    _ = (List.range ws.length).flatMap fun k => [hi (ws.getD k 0), lo (ws.getD k 0)] := List.flatMap_assoc
    _ = ((List.range ws.length).map (ws.getD · 0)).flatMap fun w => [hi w, lo w] := by
      rw [List.flatMap_map]
    _ = _ := by rw [map_getD_range]
  rw [wrEvents, mosiBytes_append, mosiBytes_append, hwords]
  exact List.append_nil _

theorem mosiBytes_wrBytesEvents (w : Word) (i : Nat → Byte) (bs : List Byte) :
    mosiBytes (wrBytesEvents w i bs) = [0x00, 0x00] ++ bs := by
  have hbytes : mosiBytes ((List.range bs.length).map fun k => .x8 (bs.getD k 0) (i k)) = bs := calc
    _ = (List.range bs.length).flatMap fun k => [bs.getD k 0] := List.flatMap_map ..
    _ = bs := by rw [← List.map_eq_flatMap, map_getD_range]
  rw [wrBytesEvents, mosiBytes_append, mosiBytes_append]
  split
  · next h => subst h; rfl
  · rw [show mosiBytes (.rdy :: (List.range bs.length).map fun k => .x8 (bs.getD k 0) (i k)) = bs from hbytes]
    exact List.append_nil _

theorem mosiBytes_rdEvents (i : Nat → Word) (n : Nat) :
    mosiBytes (rdEvents i n) = [0x10, 0x00] ++ List.replicate (2 * (n + 1)) 0x00 := by
  have hfill : ∀ m, mosiBytes ((List.range m).flatMap fun k => [.rdy, .x16 0x0000 (i (k + 1))]) =
      List.replicate (2 * m) 0x00 := by
    intro m
    induction m with
    | zero => rfl
    | succ m ih =>
      rw [List.range_succ, List.flatMap_append, mosiBytes_append, ih, Nat.mul_add, List.replicate_add]
      rfl
  rw [rdEvents, mosiBytes_append, mosiBytes_append, hfill]
  exact List.append_nil _

/-- Settles O26, transaction by transaction. -/
theorem transactionsSendTheirBytes : Obligations.TransactionsSendTheirBytes :=
  ⟨mosiBytes_cmdEvents, mosiBytes_wrEvents, mosiBytes_wrBytesEvents, mosiBytes_rdEvents⟩

/-! ### The register engine (R150, R152) -/

/-- Settles O28: the command, then one write transaction of two words. -/
theorem writeRegAnswers : Obligations.WriteRegAnswers :=
  fun a v _ _ _ h => ((sends_cmdTxn 0x0011).append (sends_wrTxn [a, v])).exec_ok rfl h

/-- Settles O29: the read keeps the words from the third on. -/
theorem readRegAnswers : Obligations.ReadRegAnswers :=
  fun a _ _ _ h => (sends_readRegTxns a).exec_readWords rfl h

/-! ### QUERY_DEVINFO (R194, R195) -/

/-- QUERY_DEVINFO's traffic and its end, the 20 words kept in `rx` behind the two that are discarded. -/
theorem exec_queryDevinfo {zs : List Nat} {rest : List Bool} {s : State} (h : HrdyAnswers 24 zs rest s) :
    exec .queryDevinfo s = .next (finish .devInfo (onWire rest 48 false
      (misoWordAt s 2 :: misoWordAt s 3 :: keptWords (fun k => misoWordAt s (2 + k)) 20)
      (cmdEvents (misoWordAt s) 0x0302 ++ rdEvents (fun k => misoWordAt s (2 + k)) 20) (begin s))) :=
  ((sends_cmdTxn 0x0302).append (sends_rdTxn 20)).exec_finish rfl h

/-- A zero dimension among the words read (R194). -/
theorem commFailure_keptWords (i : Nat → Word) (n : Nat) :
    (devInfo (keptWords i (n + 2))).commFailure = true ↔ i 2 = 0 ∨ i 3 = 0 := by
  simp [DevInfo.commFailure, devInfo, keptWords, List.range_succ_eq_map]

/-- Settles O42: with both dimensions non-zero the end fills the cache. -/
theorem queryDevinfoAnswers : Obligations.QueryDevinfoAnswers := by
  intro s zs rest h hw hh
  have hok : ¬ (devInfo (keptWords (fun k => misoWordAt s (2 + k)) 20)).commFailure = true := by
    rw [commFailure_keptWords]
    exact not_or.mpr ⟨hw, hh⟩
  rw [exec_queryDevinfo h]
  simp only [finish, onWire, List.drop_succ_cons, List.drop_zero, if_neg hok]
  rfl

/-- Settles O43: with a zero dimension the end clears DI_VALID alone. -/
theorem queryCommunicationFailure : Obligations.QueryCommunicationFailure := by
  intro s zs rest h hz
  have hfail : (devInfo (keptWords (fun k => misoWordAt s (2 + k)) 20)).commFailure = true :=
    (commFailure_keptWords _ 18).mpr hz
  rw [exec_queryDevinfo h]
  simp only [finish, onWire, List.drop_succ_cons, List.drop_zero, if_pos hfail]
  rfl

/-- Settles O45: the response and what is written depend on the words kept alone. -/
theorem queryIsIdempotent : Obligations.QueryIsIdempotent := by
  intro s s' zs zs' rest rest' h h' heq
  have hkept : keptWords (fun k => misoWordAt s (2 + k)) 20 = keptWords (fun k => misoWordAt s' (2 + k)) 20 :=
    List.map_congr_left fun k hk => heq _ (by omega) (by have := List.mem_range.mp hk; omega)
  have h4 := heq 4 (by omega) (by omega)
  have h5 := heq 5 (by omega) (by omega)
  by_cases hz : misoWordAt s 4 = 0 ∨ misoWordAt s 5 = 0
  · refine ⟨_, _, ⟨.comm, []⟩, queryCommunicationFailure s zs rest h hz,
      queryCommunicationFailure s' zs' rest' h' (by rwa [h4, h5] at hz), rfl, rfl, rfl, ?_⟩
    rintro (hdi | ⟨hw, hh⟩)
    · exact hdi
    · exact absurd hz (not_or.mpr ⟨hw, hh⟩)
  · rw [not_or] at hz
    refine ⟨_, _, _, queryDevinfoAnswers s zs rest h hz.1 hz.2,
      queryDevinfoAnswers s' zs' rest' h' (h4 ▸ hz.1) (h5 ▸ hz.2), rfl, ?_, rfl, fun _ => ?_⟩
    · rw [hkept]; rfl
    · simp only [answered_di, hkept]

end Sys2Proof.Machine

/-! WAIT_DPY_READY (R156, R157): a poll, the loop's turns after it, and its transactions on the trace. -/

namespace Sys2Proof.Machine

open Sys2Proof.Claims

/-! ### What no act reads: the micro-state, and the samples of `rst` -/

/-- The end of an act, its state changed: by `g` where the request goes on, by `e` where it is over. -/
def Progress.map (g e : State → State) : Progress → Progress
  | .go t => .go (g t)
  | .hold t => .hold (g t)
  | .ended t => .ended (e t)

/-- A state with another micro-state and other samples of `rst` to come. -/
def setAside (k : List Act) (r : List Bool) (s : State) : State := { s with todo := k, rstIn := r }

/-- A state with other samples of `rst` to come. -/
def setRst (r : List Bool) (s : State) : State := { s with rstIn := r }

section
variable (k : List Act) (r : List Bool) (s : State)

theorem raiseError_setAside (e : Status) : raiseError e (setAside k r s) = setRst r (raiseError e s) := by
  unfold raiseError
  rw [show (setAside k r s).cs = s.cs from rfl]
  split <;> rfl

theorem finish_setAside (f : Finish) : finish f (setAside k r s) = setRst r (finish f s) := by
  cases f with
  | ok data => rfl
  | fail e => exact raiseError_setAside k r s e
  | pack geom out => rfl
  | readWords => rfl
  | poll a =>
    simp only [finish, show (setAside k r s).rx = s.rx from rfl]
    split <;> rfl
  | devInfo =>
    simp only [finish, show (setAside k r s).rx = s.rx from rfl]
    split
    · exact raiseError_setAside k r { s with diValid := false } .comm
    · rfl

theorem waitReady_setAside : waitReady (setAside k r s) = (waitReady s).map (setAside k r) (setRst r) := by
  simp only [waitReady, show (setAside k r s).readyTimeout = s.readyTimeout from rfl,
    show (setAside k r s).hrdyIn = s.hrdyIn from rfl, show (setAside k r s).wcount = s.wcount from rfl]
  cases sampleHrdy s.readyTimeout s.hrdyIn s.wcount with
  | ready rest => rfl
  | hold wc => rfl
  | timeout rest wc =>
    exact congrArg Progress.ended (raiseError_setAside k r { s with hrdyIn := rest, wcount := wc } .timeout)

theorem perform_setAside (a : Act) :
    perform a (setAside k r s) = (perform a s).map (setAside k r) (setRst r) := by
  cases a with
  | ready => exact waitReady_setAside k r { s with wcount := 0 }
  | wait => exact waitReady_setAside k r s
  | pre p => cases p <;> simp only [perform, xferPreamble, xfer16_eq, nextWord_eq] <;> rfl
  | x16 o => simp only [perform, xfer16_eq]; rfl
  | fill => simp only [perform, xfer16_eq, nextWord_eq]; rfl
  | x8 o => simp only [perform, xfer8_eq]; rfl
  | done f => exact congrArg Progress.ended (finish_setAside k r s f)
  | _ => rfl

end

/-- No act takes a sample of `rst`: those are taken between the acts. -/
theorem perform_rstIn {a : Act} {s t : State}
    (h : perform a s = .go t ∨ perform a s = .hold t ∨ perform a s = .ended t) : t.rstIn = s.rstIn := by
  have haside : perform a s = (perform a s).map (setAside s.todo s.rstIn) (setRst s.rstIn) :=
    perform_setAside s.todo s.rstIn s a
  rcases h with h | h | h <;> rw [h] at haside <;> injection haside with ht <;>
    exact (congrArg State.rstIn ht :)

/-- A run's result does not depend on the micro-state it starts with: its acts are given. -/
theorem run_setTodo (k now later : List Act) (s : State) : run now later { s with todo := k } = run now later s := by
  induction now generalizing s with
  | nil => rfl
  | cons a now ih =>
    have hperf := perform_setAside k (takeRst s).rstIn (takeRst s) a
    simp only [run]
    rw [show rstAsserted { s with todo := k } = rstAsserted s from rfl,
      show takeRst { s with todo := k } = setAside k (takeRst s).rstIn (takeRst s) from rfl, hperf]
    split
    · rfl
    cases hp : perform a (takeRst s) with
    | go t =>
      rw [← perform_rstIn (.inl hp)]
      exact ih t
    | hold t =>
      rw [← perform_rstIn (.inr (.inl hp))]
      rfl
    | ended t =>
      rw [← perform_rstIn (.inr (.inr hp))]
      rfl

/-! ### Steps one after another -/

theorem steps_succ {n : Nat} {s t : State} (h : step s = .next t) : steps (n + 1) s = steps n t := by
  simp only [steps, Host.Core.run, show Sys2Proof.core.step s = step s from rfl, h]
  rfl

theorem steps_add {m n : Nat} {s t : State} (h : steps m s = .next t) : steps (m + n) s = steps n t := by
  induction m generalizing s with
  | zero => cases h; rw [Nat.zero_add]
  | succ m ih =>
    have hstep : ∃ u, step s = .next u := by
      simp only [steps, Host.Core.run, show Sys2Proof.core.step s = step s from rfl] at h
      split at h
      · next u hu => exact ⟨u, hu⟩
      · cases h
      · cases h
    obtain ⟨u, hu⟩ := hstep
    rw [Nat.add_right_comm, steps_succ hu]
    exact ih (by rw [← steps_succ hu]; exact h)

/-- A BUSY block that is not at the start of a transaction goes on with what is left. -/
theorem step_resume {s : State} {a : Act} {k : List Act} (hrst : s.rstIn = []) (hb : s.phase = .busy)
    (htodo : s.todo = a :: k) (hon : a ≠ .csOn) (hrd : a ≠ .rdOn) : step s = .next (resume s) := by
  have hfetch : fetch s = none := by
    simp only [fetch, hb, htodo]
    split
    · next h => exact absurd (List.head_eq_of_cons_eq h) hon
    · next h => exact absurd (List.head_eq_of_cons_eq h) hon
    · next h => exact absurd (List.head_eq_of_cons_eq h) hrd
    · rfl
  rw [step_live hrst, stepLive, hfetch]
  simp [proceed, hb, htodo]

/-- No fresh sample of HRDY is taken where one is queued. -/
theorem supplyHrdy_of_queued {s : State} (h : s.hrdyIn ≠ []) : supplyHrdy s = s := by
  unfold supplyHrdy
  split
  · rfl
  · contradiction

/-- A BUSY block at the start of a command transaction opens it, and leaves what comes after. -/
theorem step_opening_cmd {s : State} {k : List Act} (hrst : s.rstIn = []) (hb : s.phase = .busy)
    (htodo : s.todo = opening .cmd ++ k) : step s = .next (run (opening .cmd) k s) := by
  have hfetch : fetch s = some (.wire (preambleWord .cmd)) := by
    simp only [fetch, hb, htodo, opening, startAct, List.cons_append]
  have hdec : decode (.wire (preambleWord .cmd)) = .instr (preambleInstr .cmd) := by
    simp only [decode, decodeWire_preamble]
  rw [stepRunsDecodedInstruction s _ _ hrst hfetch hdec, exec_preamble, openTxn, takeUp, run_setTodo, htodo]
  rfl

/-! ### One poll (R156) -/

/-- The block at the head of its display-ready loop, `bytes` bytes received and `events` on the trace since `s`. -/
def atLoopHead (a : Word) (rest : List Bool) (bytes : Nat) (events : List Event) (s : State) : State :=
  { afterWire rest bytes s with
    phase := .busy
    cs := false
    todo := pollProgram a
    rx := []
    wcount := 0
    trace := s.trace ++ events }

/-- A poll that reads zero ends the request; any other goes back to the loop's head. -/
theorem finish_poll (a : Word) (rest : List Bool) (n : Nat) (x y v : Word) (events : List Event) (s : State) :
    finish (.poll a) (onWire rest n false [x, y, v] events s) =
      if v = 0 then answered .ok [] events (afterWire rest n s)
      else { atLoopHead a rest n events s with phase := s.phase } := by
  have hready : displayReady v = true ↔ v = 0 := by simp [displayReady]
  simp only [finish, onWire, List.drop_succ_cons, List.drop_zero, List.headD_cons, hready]
  split <;> rfl

/-- WAIT_DPY_READY's own step is its first poll. -/
theorem exec_waitDpyReady {a : Word} {zs : List Nat} {rest : List Bool} {s : State} (h : HrdyAnswers 7 zs rest s) :
    exec (.waitDpyReady a) s = .next (finish (.poll a) (onWire rest 14 false
      [misoWordAt s 4, misoWordAt s 5, misoWordAt s 6] (pollEvents (misoWordAt s) a) (begin s))) :=
  (sends_readRegTxns a).exec_finish rfl h

/-- Settles O31: the poll's end goes back to the loop's head. -/
theorem waitDpyReadyPollsAgain : Obligations.WaitDpyReadyPollsAgain := by
  intro a s zs rest h hne
  rw [exec_waitDpyReady h, finish_poll, if_neg hne]
  rfl

/-- From the loop's head the next poll takes two steps: its preamble, and the rest of it. -/
theorem steps_poll {a : Word} {zs : List Nat} {rest : List Bool} {u : State} (hb : u.phase = .busy)
    (htodo : u.todo = pollProgram a) (h : HrdyAnswers 7 zs rest u) :
    steps 2 u = .next (finish (.poll a) (onWire rest 14 false
      [misoWordAt u 4, misoWordAt u 5, misoWordAt u 6] (pollEvents (misoWordAt u) a) u)) := by
  obtain ⟨z, zs, rfl⟩ : ∃ z zs', zs = z :: zs' := by
    have := h.count
    cases zs with
    | nil => simp at this
    | cons z zs => exact ⟨z, zs, rfl⟩
  let k := (pollProgram a).drop 3
  let v := onWire (waits zs ++ rest) 2 true u.rx [.cs1, .rdy, .x16 (preambleWord .cmd) (misoWordAt u 0)] u
  have hopen : ∀ now later, run (opening .cmd ++ now) later u = run now later v := run_opening_of_hrdyAnswers h .cmd
  have hpreamble : step u = .next { v with todo := k } := calc
    step u = .next (run (opening .cmd) k u) := step_opening_cmd h.noReset hb htodo
    _ = .next { v with todo := k } := congrArg _ (hopen [] k)
  have hqueued : v.hrdyIn ≠ [] := by
    obtain ⟨y, ys, rfl⟩ : ∃ y ys, zs = y :: ys := List.exists_cons_of_length_eq_add_one (by simpa using h.count)
    simp [v, onWire, waits_cons]
  have hrest : step { v with todo := k } = .next (run k [] v) := by
    rw [step_resume (s := { v with todo := k }) h.noReset hb rfl (by simp) (by simp), resume,
      supplyHrdy_of_queued (by exact hqueued), run_setTodo]
  rw [steps_succ hpreamble, steps_succ hrest, ← hopen]
  show Host.Outcome.next (run (readRegTxns a ++ [.done (.poll a)]) [] u) = _
  rw [(sends_readRegTxns a).through _ _ u h, run_done (s := onWire _ _ _ _ _ u) h.noReset]
  rfl

/-! ### The loop's turns (R156, R157) -/

/-- The events of the first `n` polls, `i k` being the k-th word received. -/
def pollsEvents (i : Nat → Word) (a : Word) (n : Nat) : List Event :=
  (List.range n).flatMap fun j => pollEvents (fun m => i (7 * j + m)) a

theorem pollsEvents_succ (i : Nat → Word) (a : Word) (n : Nat) :
    pollsEvents i a (n + 1) = pollsEvents i a n ++ pollEvents (fun m => i (7 * n + m)) a := by
  simp [pollsEvents, List.range_succ]

theorem pollsEvents_one (i : Nat → Word) (a : Word) : pollsEvents i a 1 = pollEvents i a := by
  simp [pollsEvents, List.range_succ]

section
variable (a : Word) (rest rest' : List Bool) (m n : Nat) (ev ev' : List Event) (s : State)

theorem answered_atLoopHead (st : Status) (data : List Word) :
    answered st data ev' (afterWire rest' n (atLoopHead a rest m ev s)) =
      answered st data (ev ++ ev') (afterWire rest' (m + n) s) := by
  rw [← afterWire_afterWire rest rest' m n s]
  simp [answered, atLoopHead, afterWire]

theorem atLoopHead_atLoopHead :
    atLoopHead a rest' n ev' (atLoopHead a rest m ev s) = atLoopHead a rest' (m + n) (ev ++ ev') s := by
  simp only [atLoopHead, ← afterWire_afterWire rest rest' m n s]
  simp [afterWire]

theorem misoWordAt_atLoopHead : misoWordAt (atLoopHead a rest (14 * n) ev s) = fun k => misoWordAt s (7 * n + k) := by
  funext k
  rw [← misoWordAt_afterWire rest (7 * n) k s, show 2 * (7 * n) = 14 * n by omega]
  exact misoWordAt_congr rfl rfl k

end

/-- A further poll, from the loop's head after `n` polls. -/
theorem steps_poll_atLoopHead {a : Word} {n : Nat} {zs : List Nat} {rest : List Bool} {s : State}
    (hrst : s.rstIn = []) (hcount : zs.length = 7) (hin : Patient s.readyTimeout zs) :
    steps 2 (atLoopHead a (waits zs ++ rest) (14 * n) (pollsEvents (misoWordAt s) a n) s) =
      .next (if misoWordAt s (7 * n + 6) = 0
        then answered .ok [] (pollsEvents (misoWordAt s) a (n + 1)) (afterWire rest (14 * (n + 1)) s)
        else atLoopHead a rest (14 * (n + 1)) (pollsEvents (misoWordAt s) a (n + 1)) s) := by
  have h : HrdyAnswers 7 zs rest (atLoopHead a (waits zs ++ rest) (14 * n) (pollsEvents (misoWordAt s) a n) s) :=
    ⟨hrst, hcount, rfl, hin⟩
  rw [steps_poll rfl rfl h, finish_poll, misoWordAt_atLoopHead, answered_atLoopHead, pollsEvents_succ, Nat.mul_add,
    ← atLoopHead_atLoopHead a (waits zs ++ rest)]
  rfl

/-- After `n + 1` polls that read non-zero the block is at the head of its loop (R157). -/
theorem polls_nonzero {a : Word} {n : Nat} : ∀ {zs : List Nat} {rest : List Bool} {s : State},
    HrdyAnswers (7 * (n + 1)) zs rest s → (∀ j, j ≤ n → misoWordAt s (7 * j + 6) ≠ 0) →
    ∃ t, exec (.waitDpyReady a) s = .next t ∧
      steps (2 * n) t = .next (atLoopHead a rest (14 * (n + 1)) (pollsEvents (misoWordAt s) a (n + 1)) s) := by
  induction n with
  | zero =>
    intro zs rest s h hne
    refine ⟨_, waitDpyReadyPollsAgain a s zs rest h (hne 0 le_rfl), ?_⟩
    rw [pollsEvents_one]
    rfl
  | succ n ih =>
    intro zs rest s h hne
    obtain ⟨h1, hcount, hin⟩ := HrdyAnswers.split (m := 7 * (n + 1)) (n := 7) h
    obtain ⟨t, ht, hsteps⟩ := ih h1 fun j hj => hne j (by omega)
    refine ⟨t, ht, ?_⟩
    rw [Nat.mul_add, steps_add hsteps, steps_poll_atLoopHead h.noReset hcount hin, if_neg (hne (n + 1) le_rfl)]

/-- Settles O30: the first poll by its own end, a later one after those that read non-zero. -/
theorem waitDpyReadyAnswers : Obligations.WaitDpyReadyAnswers := by
  have first : ∀ a s zs rest, HrdyAnswers 7 zs rest s → misoWordAt s 6 = 0 →
      exec (.waitDpyReady a) s = .next (answered .ok [] (pollEvents (misoWordAt s) a) (afterWire rest 14 s)) := by
    intro a s zs rest h h0
    rw [exec_waitDpyReady h, finish_poll, if_pos h0]
    rfl
  refine ⟨first, fun k a s zs rest h hne h0 => ?_⟩
  cases k with
  | zero =>
    refine ⟨_, first a s zs rest h h0, ?_⟩
    have := pollsEvents_one (misoWordAt s) a
    rw [← this]
    rfl
  | succ k =>
    obtain ⟨h1, hcount, hin⟩ := HrdyAnswers.split (m := 7 * (k + 1)) (n := 7) h
    obtain ⟨t, ht, hsteps⟩ := polls_nonzero h1 fun j hj => hne j (by omega)
    refine ⟨t, ht, ?_⟩
    rw [Nat.mul_add, steps_add hsteps, steps_poll_atLoopHead h.noReset hcount hin, if_pos h0]
    rfl

/-! ### The transactions of the polls (R30) -/

/-- A poll is three transactions, whatever stood before it on the trace. -/
theorem transactionsFrom_poll (acc : Option (List Event)) (i : Nat → Word) (a : Word) (t : List Event) :
    (transactionsFrom acc (pollEvents i a ++ t)).length = 3 + (transactionsFrom none t).length := by
  rw [Nat.add_comm]
  cases acc <;> rfl

theorem transactionsFrom_polls (i : Nat → Word) (a : Word) (n : Nat) (acc : Option (List Event)) :
    (transactionsFrom acc (pollsEvents i a n)).length = 3 * n := by
  have hall : ∀ (l : List Nat) acc, (transactionsFrom acc
      (l.flatMap fun j => pollEvents (fun m => i (7 * j + m)) a)).length = 3 * l.length := by
    intro l
    induction l with
    | nil => intro acc; cases acc <;> rfl
    | cons j l ih =>
      intro acc
      rw [List.flatMap_cons, transactionsFrom_poll, ih, List.length_cons]
      omega
  rw [pollsEvents, hall, List.length_range]

/-- A trace that goes on with events whose transactions do not depend on what stood before has theirs more. -/
theorem transactionsFrom_append {u : List Event} {n : Nat} (hu : ∀ acc, (transactionsFrom acc u).length = n)
    (t : List Event) (acc : Option (List Event)) :
    (transactionsFrom acc (t ++ u)).length = (transactionsFrom acc t).length + n := by
  induction t generalizing acc with
  | nil => rw [List.nil_append, hu]; cases acc <;> simp [transactionsFrom]
  | cons e t ih => cases e <;> cases acc <;> simp [transactionsFrom, ih, Nat.add_right_comm]

/-- Settles O32: each poll is three transactions and no response. -/
theorem pollsThatNeverReadZeroNeverRespond : Obligations.PollsThatNeverReadZeroNeverRespond := by
  intro k a s zs rest h hne
  obtain ⟨t, ht, hsteps⟩ := polls_nonzero (a := a) h hne
  exact ⟨t, _, ht, hsteps, rfl, rfl, rfl, rfl,
    transactionsFrom_append (transactionsFrom_polls (misoWordAt s) a (k + 1)) s.trace none⟩

end Sys2Proof.Machine

/-! The pixel packer (43_pixel_packer.md): PACK_PIXELS' end, and every nibble of its output. -/

namespace Sys2Proof.Machine

open Sys2Proof.Claims

/-! ### PACK_PIXELS' end (R170, R171, R174) -/

/-- An instruction that only fails, outside every transaction. -/
theorem exec_done_fail {i : Instr} {e : Status} (hprog : requestProgram i = some [.done (.fail e)]) {s : State}
    (hrst : s.rstIn = []) (hcs : s.cs = false) : exec i s = .next (answered e [] [] s) := by
  rw [exec_eq_issue hprog, issue_done_fail hrst hcs]

/-- A payload that is packed. -/
theorem exec_packPixels_pack {d : Depth} {e : Endian} {p out : List Word} {geom : Word32}
    (hp : packResult d e p = .pack geom out) {s : State} (hrst : s.rstIn = []) (hcs : s.cs = false) :
    exec (.packPixels d e p) s = .next (answered .ok out [] { s with packGeom := geom }) := by
  rw [exec_eq_issue (i := .packPixels d e p) rfl, hp, issue_done hrst]
  exact congrArg _ (respond_begin (s := { s with packGeom := geom }) hcs .ok out)

/-- A payload that is not packed. -/
theorem exec_packPixels_fail {d : Depth} {e : Endian} {p : List Word} {st : Status} (hp : packResult d e p = .fail st)
    {s : State} (hrst : s.rstIn = []) (hcs : s.cs = false) :
    exec (.packPixels d e p) s = .next (answered st [] [] s) :=
  exec_done_fail (i := .packPixels d e p) (congrArg (fun f => some [Act.done f]) hp) hrst hcs

/-- Settles O34: another pairing ends in E_UNIMPL, and a supported one is malformed or packed. -/
theorem unsupportedPackingUnimplemented : Obligations.UnsupportedPackingUnimplemented := by
  intro d e p s hrst hcs
  refine ⟨?_, fun h => exec_packPixels_fail (packResult_unsupported h p) hrst hcs⟩
  rintro hexec ⟨rfl, rfl⟩
  obtain hp | ⟨x, y, w, h, pixels, out, _, hp⟩ := packResult_supported p
  · rw [exec_packPixels_fail hp hrst hcs, Host.Outcome.next.injEq] at hexec
    cases congrArg State.lastErr hexec
  · rw [exec_packPixels_pack hp hrst hcs, Host.Outcome.next.injEq] at hexec
    cases congrArg State.lastErr hexec

/-- Settles O35: what is packed has passed every check. -/
theorem packPreconditionsChecked : Obligations.PackPreconditionsChecked := by
  intro p s hrst hcs hbad
  obtain hp | ⟨x, y, w, h, pixels, out, rfl, hp⟩ := packResult_supported p
  · exact exec_packPixels_fail hp hrst hcs
  · obtain ⟨_, hw, hh, hlen, hrange, _, _⟩ := packResult_pack hp
    exfalso
    rcases hbad with hshort | hw0 | hh0 | hlen' | ⟨v, hv, hbig⟩
    · simp only [List.length_cons] at hshort
      omega
    · exact hw (BitVec.eq_of_toNat_eq hw0)
    · exact hh (BitVec.eq_of_toNat_eq hh0)
    · exact hlen' (by simpa using hlen)
    · exact absurd (hrange v hv) (by omega)

/-- A whole 4 bpp rectangle is packed (R170). -/
theorem packResult_of_valid {x y w h : Word} {pixels : List Word} (hw : 0 < w.toNat) (hh : 0 < h.toNat)
    (hlen : pixels.length = w.toNat * h.toNat) (hrange : ∀ p ∈ pixels, p.toNat ≤ 15) :
    packResult .d4 .little (x :: y :: w :: h :: pixels) = .pack (packGeomOf x.toNat w.toNat)
      (packWords x.toNat w.toNat h.toNat (pixels.map (BitVec.setWidth 4))) := by
  have ne_zero : ∀ {v : Word}, 0 < v.toNat → (v == 0) = false := by
    intro v hv
    rw [beq_eq_false_iff_ne]
    rintro rfl
    exact absurd hv (by decide)
  have hpix : pixels.all pixelInRange = true := by simpa [pixelInRange] using hrange
  simp only [packResult, packSupported_eq_true.mpr ⟨rfl, rfl⟩, payloadRect, payloadPixels, List.drop_succ_cons,
    List.drop_zero, ne_zero hw, ne_zero hh, hlen, hpix, bne_self_eq_false, Bool.or_self, Bool.not_true,
    Bool.false_eq_true, if_false]

/-! ### The geometry (R28, R173) -/

theorem floor4_eq_rowStart (x : Nat) : floor4 x = rowStart x := floor4_eq x

theorem wordsPerRow_eq (x w : Nat) : wordsPerRow x w = rowLength x w / 4 := by
  simp only [wordsPerRow, floor4_eq, ceil4_eq, rowLength]

/-- The padded row of 16-bit operands has at most 32768 words. -/
theorem rowLength_le (x w : Word) : rowLength x.toNat w.toNat / 4 ≤ 32768 := by
  have := x.isLt
  have := w.isLt
  simp only [rowLength]
  omega

/-- PACK_GEOM as a number, for 16-bit operands. -/
theorem packGeomOf_eq (x w : Word) :
    packGeomOf x.toNat w.toNat = BitVec.ofNat 32 (65536 * (rowLength x.toNat w.toNat / 4) + rowStart x.toNat) := by
  have hx := x.isLt
  have hwpr := rowLength_le x w
  have hstart : rowStart x.toNat < 2 ^ 16 := by simp only [rowStart]; omega
  apply BitVec.eq_of_toNat_eq
  have happ : (packGeomOf x.toNat w.toNat).toNat =
      (BitVec.ofNat 16 (rowLength x.toNat w.toNat / 4)).toNat <<< 16 ||| (BitVec.ofNat 16 (rowStart x.toNat)).toNat := by
    rw [packGeomOf, wordsPerRow_eq, floor4_eq_rowStart]
    exact BitVec.toNat_append _ _
  rw [happ, BitVec.toNat_ofNat, BitVec.toNat_ofNat, BitVec.toNat_ofNat, Nat.mod_eq_of_lt hstart,
    ← Nat.shiftLeft_add_eq_or_of_lt hstart, Nat.shiftLeft_eq]
  omega

/-- Settles O38: the two halves of PACK_GEOM. -/
theorem geometryFields : Obligations.GeometryFields := by
  intro x w s hgeom
  have hx := x.isLt
  have hwpr := rowLength_le x w
  have hstart : rowStart x.toNat < 65536 := by simp only [rowStart]; omega
  rw [packGeomOf_eq] at hgeom
  have hX0 : (geomX0 s).toNat = rowStart x.toNat := by
    simp only [geomX0, hgeom, BitVec.extractLsb'_toNat, BitVec.toNat_ofNat, Nat.shiftRight_zero]
    omega
  have hWpr : (geomWpr s).toNat = rowLength x.toNat w.toNat / 4 := by
    simp only [geomWpr, hgeom, BitVec.extractLsb'_toNat, BitVec.toNat_ofNat, Nat.shiftRight_eq_div_pow]
    omega
  exact ⟨hX0, hWpr, hWpr ▸ hwpr⟩

/-! ### A packed word (R172) -/

theorem pack4_toNat (p0 p1 p2 p3 : BitVec 4) :
    (pack4 p0 p1 p2 p3).toNat = p0.toNat + 16 * p1.toNat + 256 * p2.toNat + 4096 * p3.toNat := by
  have h0 := p0.isLt
  have h1 := p1.isLt
  have h2 := p2.isLt
  have h3 := p3.isLt
  have slot : ∀ {n a b : Nat}, a < 2 ^ n → a ||| b <<< n = a + 2 ^ n * b := by
    intro n a b ha
    rw [Nat.or_comm, ← Nat.shiftLeft_add_eq_or_of_lt ha, Nat.shiftLeft_eq, Nat.add_comm, Nat.mul_comm]
  have shift : ∀ {n : Nat} (p : BitVec 4), n ≤ 12 → ((p.setWidth 16) <<< n).toNat = p.toNat <<< n := by
    intro n p hn
    have hp := p.isLt
    have hle : p.toNat <<< n < 2 ^ 16 := calc
      p.toNat <<< n = p.toNat * 2 ^ n := Nat.shiftLeft_eq ..
      _ < 2 ^ 4 * 2 ^ n := Nat.mul_lt_mul_of_pos_right hp (by positivity)
      _ ≤ 2 ^ 4 * 2 ^ 12 := Nat.mul_le_mul_left _ (Nat.pow_le_pow_right (by decide) hn)
    simp only [BitVec.toNat_shiftLeft, BitVec.toNat_setWidth]
    rw [Nat.mod_eq_of_lt (by omega : p.toNat < 2 ^ 16), Nat.mod_eq_of_lt hle]
  simp only [pack4, BitVec.toNat_or, shift, Nat.reduceLeDiff, BitVec.toNat_setWidth]
  rw [Nat.mod_eq_of_lt (by omega), slot h0, slot (n := 8) (by omega), slot (n := 12) (by omega)]
  omega

/-- Settles O37: the slots are the digits of the sum in base 16. -/
theorem packedWordSlots : Obligations.PackedWordSlots := by
  intro p0 p1 p2 p3
  have h0 := p0.isLt
  have h1 := p1.isLt
  have h2 := p2.isLt
  have h3 := p3.isLt
  have slot : ∀ (n : Nat) (p : BitVec 4), (pack4 p0 p1 p2 p3).toNat / 2 ^ n % 16 = p.toNat →
      (pack4 p0 p1 p2 p3).extractLsb' n 4 = p := by
    intro n p h
    apply BitVec.eq_of_toNat_eq
    rw [BitVec.extractLsb'_toNat, Nat.shiftRight_eq_div_pow]
    exact h
  refine ⟨pack4_toNat p0 p1 p2 p3, slot 0 p0 ?_, slot 4 p1 ?_, slot 8 p2 ?_, slot 12 p3 ?_⟩ <;>
    rw [pack4_toNat] <;> omega

/-! ### The packed rows (R170, R173) -/

/-- The nibble at column `c` of a packed row is the row's pixel there. -/
theorem packRow_nibble {n : Nat} {row : List (BitVec 4)} (hlen : row.length = 4 * n) {c : Nat} (hc : c < 4 * n) :
    ((packRow row).getD (c / 4) 0).extractLsb' (4 * (c % 4)) 4 = row.getD c 0 := by
  induction n generalizing row c with
  | zero => omega
  | succ n ih =>
    match row, hlen with
    | p0 :: p1 :: p2 :: p3 :: rest, hlen =>
      obtain ⟨_, hs0, hs1, hs2, hs3⟩ := packedWordSlots p0 p1 p2 p3
      match c, hc with
      | 0, _ => exact hs0
      | 1, _ => exact hs1
      | 2, _ => exact hs2
      | 3, _ => exact hs3
      | c + 4, hc =>
        rw [show (c + 4) / 4 = c / 4 + 1 by omega, show (c + 4) % 4 = c % 4 by omega]
        exact ih (by simp only [List.length_cons] at hlen; omega) (by omega)
    | [], hlen => simp at hlen
    | [_], hlen => simp at hlen; omega
    | [_, _], hlen => simp at hlen; omega
    | [_, _, _], hlen => simp at hlen; omega

/-- Lists of one length, one after another: entry `j` of list `r`. -/
theorem getD_flatMap_range {α : Type} {f : Nat → List α} {l h : Nat} (hf : ∀ r, r < h → (f r).length = l) {r j : Nat}
    (hr : r < h) (hj : j < l) (d : α) : ((List.range h).flatMap f).getD (r * l + j) d = (f r).getD j d := by
  induction h with
  | zero => omega
  | succ h ih =>
    have hlen : ((List.range h).flatMap f).length = h * l := by
      rw [List.length_flatMap, List.map_congr_left fun r hr => hf r (by have := List.mem_range.mp hr; omega)]
      simp
    rw [List.range_succ, List.flatMap_append, List.flatMap_singleton]
    obtain hlt | rfl : r < h ∨ r = h := by omega
    · have : (r + 1) * l ≤ h * l := Nat.mul_le_mul_right l hlt
      rw [Nat.add_one_mul] at this
      rw [List.getD_append _ _ _ _ (by omega)]
      exact ih (fun r hr => hf r (by omega)) hlt
    · rw [List.getD_append_right _ _ _ _ (by omega), hlen, Nat.add_sub_cancel_left]

/-- The pixel at column `c` of a padded row: the row's, or a padding zero (R173). -/
theorem padRow_getD {x w : Nat} {row : List (BitVec 4)} (hlen : row.length = w) (c : Nat) :
    (padRow x w row).getD c 0 = if x % 4 ≤ c ∧ c < x % 4 + w then row.getD (c - x % 4) 0 else 0 := by
  have hzero : ∀ n k, (List.replicate n (0 : BitVec 4)).getD k 0 = 0 := by
    intro n k
    by_cases h : k < n <;> simp [List.getD_eq_getElem?_getD, h]
  simp only [padRow, padLead_eq, List.append_assoc]
  by_cases hlead : c < x % 4
  · rw [List.getD_append _ _ _ _ (by simpa using hlead), hzero, if_neg (by omega)]
  rw [List.getD_append_right _ _ _ _ (by simpa using hlead), List.length_replicate]
  by_cases hrow : c - x % 4 < row.length
  · rw [List.getD_append _ _ _ _ hrow, if_pos (by omega)]
  · rw [List.getD_append_right _ _ _ _ (by omega), hzero, if_neg (by omega)]

theorem pixelRow_getD {w r j : Nat} (pixels : List (BitVec 4)) (hj : j < w) :
    (pixelRow w pixels r).getD j 0 = pixels.getD (r * w + j) 0 := by
  simp [pixelRow, List.getD_eq_getElem?_getD, hj]

/-- Every nibble of the packed words is the pixel at its column of the padded row, or a padding zero (R170, R173). -/
theorem packWords_nibble {x w h : Nat} {pixels : List (BitVec 4)} (hp : pixels.length = w * h) {r c : Nat} (hr : r < h)
    (hc : c < rowLength x w) :
    ((packWords x w h pixels).getD (r * (rowLength x w / 4) + c / 4) 0).extractLsb' (4 * (c % 4)) 4 =
      if x % 4 ≤ c ∧ c < x % 4 + w then pixels.getD (r * w + (c - x % 4)) 0 else 0 := by
  have hpad : ∀ r, r < h → (padRow x w (pixelRow w pixels r)).length = 4 * (rowLength x w / 4) := by
    intro r hr
    rw [padRow_length _ _ _ (pixelRow_length hp hr)]
    simp only [floor4_eq, ceil4_eq, rowLength]
    omega
  have hdiv : rowLength x w = 4 * (rowLength x w / 4) := by simp only [rowLength]; omega
  rw [packWords, getD_flatMap_range (fun r hr => packRow_length _ _ (hpad r hr)) hr (by omega),
    packRow_nibble (hpad r hr) (by omega), padRow_getD (pixelRow_length hp hr)]
  split
  · rw [pixelRow_getD pixels (by omega)]
  · rfl

/-- Settles O33: the end packs the payload's pixels, low nibbles of their entries. -/
theorem packPixelsAnswers : Obligations.PackPixelsAnswers := by
  intro x y w h ps s hrst hcs hw hh hlen hrange
  have hmap : (ps.map (BitVec.setWidth 4)).length = w.toNat * h.toNat := by simpa using hlen
  refine ⟨packWords x.toNat w.toNat h.toNat (ps.map (BitVec.setWidth 4)), ?_, ?_, fun r c hr hc => ?_⟩
  · rw [exec_packPixels_pack (packResult_of_valid hw hh hlen hrange) hrst hcs, packGeomOf_eq]
  · rw [packWords_length hmap, wordsPerRow_eq]
  · rw [packWords_nibble hmap hr hc]
    congr 1
    exact List.getD_map ps (0 : Word) (BitVec.setWidth 4)

/-- Settles O36: the padded rows' words, counted. -/
theorem packedLength : Obligations.PackedLength := by
  intro x y w h ps s hrst hcs hw hh hlen hrange
  have hmap : (ps.map (BitVec.setWidth 4)).length = w.toNat * h.toNat := by simpa using hlen
  have hout := packWords_length (x := x.toNat) hmap
  rw [wordsPerRow_eq] at hout
  refine ⟨_, _, exec_packPixels_pack (packResult_of_valid hw hh hlen hrange) hrst hcs, rfl, hout, ?_⟩
  have hrow : 4 * (rowLength x.toNat w.toNat / 4) =
      w.toNat + (x.toNat % 4 + (4 - (x.toNat + w.toNat) % 4) % 4) := by
    simp only [rowLength]
    omega
  rw [hout, Nat.mul_left_comm, hrow, Nat.mul_add, Nat.mul_comm w.toNat]

end Sys2Proof.Machine

/-! The device info (R191, R192, R201), its cache (R26), and the other value functions of the status decoder. -/

namespace Sys2Proof.Machine

open Sys2Proof.Claims

/-! ### The version strings (R192) -/

/-- The bytes of a version string, each word high byte first. -/
theorem versionString_getD {ws : List Word} {k : Nat} (hk : k < ws.length) :
    (versionString ws).getD (2 * k) 0 = hi (ws.getD k 0) ∧ (versionString ws).getD (2 * k + 1) 0 = lo (ws.getD k 0) := by
  induction ws generalizing k with
  | nil => simp at hk
  | cons w ws ih =>
    cases k with
    | zero => exact ⟨rfl, rfl⟩
    | succ k => exact ih (by simpa using hk)

theorem getD_take_drop {ws : List Word} {m n k : Nat} (hk : k < n) : ((ws.drop m).take n).getD k 0 = ws.getD (m + k) 0 := by
  simp [List.getD_eq_getElem?_getD, hk]

/-- The bytes of a decoded version string `v`, which begins at word `m` (R191). -/
theorem version_getD {ws : List Word} {m k : Nat} (hws : m + 8 ≤ ws.length) (hk : k < 8) :
    (versionString ((ws.drop m).take 8)).getD (2 * k) 0 = hi (ws.getD (m + k) 0) ∧
      (versionString ((ws.drop m).take 8)).getD (2 * k + 1) 0 = lo (ws.getD (m + k) 0) := by
  have h := versionString_getD (ws := (ws.drop m).take 8) (k := k) (by simp; omega)
  rwa [getD_take_drop hk] at h

/-! ### The response (R201) -/

theorem devInfoData_eq (i : DevInfo) : devInfoData i =
    [i.width, i.height, i.fbAddr.extractLsb' 0 16, i.fbAddr.extractLsb' 16 16] ++
      (i.fw ++ i.lut).map (BitVec.setWidth 16) := by
  simp [devInfoData]

theorem devInfo_fbAddr_toNat (ws : List Word) :
    (devInfo ws).fbAddr.toNat = (ws.getD 2 0).toNat + 65536 * (ws.getD 3 0).toNat := by
  have h : (devInfo ws).fbAddr.toNat = (ws.getD 3 0).toNat <<< 16 ||| (ws.getD 2 0).toNat := BitVec.toNat_append _ _
  rw [h, ← Nat.shiftLeft_add_eq_or_of_lt (ws.getD 2 0).isLt, Nat.shiftLeft_eq]
  omega

/-- Byte `n` of the two version strings, the firmware's first, in the words from the fourth on. -/
theorem devInfo_strings_getD {ws : List Word} (h : ws.length = 20) {k : Nat} (hk : k < 16) :
    ((devInfo ws).fw ++ (devInfo ws).lut).getD (2 * k) 0 = hi (ws.getD (4 + k) 0) ∧
      ((devInfo ws).fw ++ (devInfo ws).lut).getD (2 * k + 1) 0 = lo (ws.getD (4 + k) 0) := by
  have hlen := devInfo_fw_length h
  by_cases hfw : k < 8
  · rw [List.getD_append _ _ _ _ (by omega), List.getD_append _ _ _ _ (by omega)]
    exact version_getD (m := 4) (by omega) hfw
  · obtain ⟨j, rfl⟩ : ∃ j, k = 8 + j := ⟨k - 8, by omega⟩
    rw [List.getD_append_right _ _ _ _ (by omega), List.getD_append_right _ _ _ _ (by omega), hlen,
      show 2 * (8 + j) - 16 = 2 * j by omega, show 2 * (8 + j) + 1 - 16 = 2 * j + 1 by omega,
      show 4 + (8 + j) = 12 + j by omega]
    exact version_getD (m := 12) (by omega) (by omega)

/-- Settles O41: the fields by their bits, the strings' bytes by `devInfo_strings_getD`. -/
theorem deviceInfoLayout : Obligations.DeviceInfoLayout := by
  intro ws h
  have hentry : ∀ n, (devInfoData (devInfo ws)).getD (4 + n) 0 =
      (((devInfo ws).fw ++ (devInfo ws).lut).getD n 0).setWidth 16 := by
    intro n
    rw [devInfoData_eq, List.getD_append_right _ _ _ _ (by simp), List.length_cons, List.length_cons, List.length_cons,
      List.length_cons, List.length_nil, Nat.add_sub_cancel_left]
    exact List.getD_map _ (0 : Byte) (BitVec.setWidth 16)
  refine ⟨rfl, rfl, devInfo_fbAddr_toNat ws, ?_, fun k hk => ?_, fun k hk => ?_⟩
  · rw [devInfoData_eq]
    simp [devInfo_fw_length h, devInfo_lut_length h]
  · match k, hk with
    | 0, _ => rfl
    | 1, _ => rfl
    | 2, _ => exact BitVec.extractLsb'_append_eq_right
    | 3, _ => exact BitVec.extractLsb'_append_eq_left
  · obtain ⟨hhi, hlo⟩ := devInfo_strings_getD h hk
    exact ⟨(hentry _).trans (congrArg _ hhi), (hentry _).trans (congrArg _ hlo)⟩

/-- Settles O39: the end is an OK response with the decoding. -/
theorem decodeDevinfoAnswers : Obligations.DecodeDevinfoAnswers := by
  intro ws s hrst hcs h
  have hres : decodeResult ws = .ok (devInfoData (devInfo ws)) := by simp [decodeResult, h]
  rw [exec_eq_issue (i := .decodeDevinfo ws) rfl, hres, issue_done_ok hrst hcs]

/-! ### The cache (R26, R194) -/

/-- Byte `k` of a version string's CSR `j`. -/
theorem versionReg_byte (bs : List Byte) (j : Nat) {k : Nat} (hk : k < 4) :
    (versionReg bs j).extractLsb' (8 * k) 8 = bs.getD (4 * j + k) 0 := by
  rw [versionReg]
  match k, hk with
  | 0, _ => exact BitVec.extractLsb'_append_eq_right
  | 1, _ =>
    rw [BitVec.extractLsb'_append_eq_of_le (by omega)]
    exact BitVec.extractLsb'_append_eq_right
  | 2, _ =>
    rw [BitVec.extractLsb'_append_eq_of_le (by omega), BitVec.extractLsb'_append_eq_of_le (by omega)]
    exact BitVec.extractLsb'_append_eq_right
  | 3, _ =>
    rw [BitVec.extractLsb'_append_eq_of_le (by omega), BitVec.extractLsb'_append_eq_of_le (by omega)]
    exact BitVec.extractLsb'_append_eq_left

/-- Settles O44: byte `n` of a string is byte `n % 4` of its CSR `n / 4`. -/
theorem cacheHoldsDecodedInfo : Obligations.CacheHoldsDecodedInfo := by
  intro ws h
  refine ⟨BitVec.extractLsb'_append_eq_right, BitVec.extractLsb'_append_eq_left, rfl, fun n hn => ?_⟩
  have hbyte : ∀ bs, (versionReg bs (n / 4)).extractLsb' (8 * (n % 4)) 8 = bs.getD n 0 := by
    intro bs
    rw [versionReg_byte bs (n / 4) (by omega), Nat.div_add_mod]
  have hfw := hbyte (devInfo ws).fw
  have hlut := hbyte (devInfo ws).lut
  unfold DiCache.fwByte DiCache.lutByte
  obtain hq | hq | hq | hq : n / 4 = 0 ∨ n / 4 = 1 ∨ n / 4 = 2 ∨ n / 4 = 3 := by omega
  all_goals
    rw [hq] at hfw hlut ⊢
    exact ⟨hfw, hlut⟩

/-! ### Containment, VCOM (R197, R198) -/

/-- Settles O46: the predicate is `DI_VALID` and the four comparisons. -/
theorem containmentPredicate : Obligations.ContainmentPredicate := by
  intro s r
  cases h : s.diValid <;> simp [contained, panelRect, h, DiCache.width, DiCache.height]

/-- Settles O47: a voltage in range is minus a 16-bit magnitude, which the word holds. -/
theorem vcomRoundTrip : Obligations.VcomRoundTrip := by
  refine ⟨rfl, fun mV => ⟨fun ⟨hlo, hhi⟩ => ?_, fun h => ?_⟩⟩
  · have hnat : (BitVec.ofNat 16 mV.natAbs).toNat = mV.natAbs := by
      rw [BitVec.toNat_ofNat]
      omega
    refine ⟨BitVec.ofNat 16 mV.natAbs, ?_, ?_, ?_⟩
    · rw [vcomEncode, if_neg (by omega), if_neg (by omega)]
    · rw [vcomDecode, hnat]
      omega
    · rw [hnat]
      omega
  · rw [vcomEncode]
    split
    · rfl
    · rw [if_pos (by omega)]

/-! ### The CSRs (R24, R25) -/

/-- A bit of STATUS: each field's in turn, from BUSY up (R25). -/
theorem statusWord_getLsbD (hrdy : Bool) (s : State) (b : Nat) :
    (statusWord hrdy s).getLsbD b =
      if b < 1 then (BitVec.ofBool (busyBit s)).getLsbD b
      else if b - 1 < 1 then (BitVec.ofBool s.diValid).getLsbD (b - 1)
      else if b - 1 - 1 < 3 then (statusCode s.lastErr).getLsbD (b - 1 - 1)
      else if b - 1 - 1 - 3 < 1 then (BitVec.ofBool s.cs).getLsbD (b - 1 - 1 - 3)
      else if b - 1 - 1 - 3 - 1 < 1 then (BitVec.ofBool hrdy).getLsbD (b - 1 - 1 - 3 - 1) else false := by
  have happ : statusWord hrdy s = (0#25 ++ BitVec.ofBool hrdy ++ BitVec.ofBool s.cs ++ statusCode s.lastErr ++
    BitVec.ofBool s.diValid ++ BitVec.ofBool (busyBit s) : BitVec (25 + 1 + 1 + 3 + 1 + 1)) := rfl
  rw [happ]
  simp only [BitVec.getLsbD_append, BitVec.getLsbD_zero]

theorem busyBit_eq (s : State) : busyBit s = decide (s.phase = .busy) := by
  cases h : s.phase <;> simp [busyBit, h]

/-- Settles O58: STATUS by `statusWord_getLsbD`, each other register by its number. -/
theorem csrMap : Obligations.CsrMap := by
  intro s hrdy
  refine ⟨fun b hb => ?_, rfl, rfl, rfl, rfl, rfl, rfl, rfl, rfl, rfl, rfl, rfl, ?_, ?_, fun _ _ => rfl⟩
  · show (statusWord hrdy s).getLsbD b = _
    rw [statusWord_getLsbD]
    match b with
    | 0 => simp [busyBit_eq]
    | 1 | 2 | 3 | 4 | 5 | 6 => simp
    | b + 7 => simp
  · cases h : s.readyTimeout <;> simp [readCsr, paramWord, h]
  · intro n hn
    unfold readCsr
    split <;> grind

/-- Settles O59, by evaluating the word for either level of HRDY. -/
theorem statusAfterReset : Obligations.StatusAfterReset := by
  intro hrdy
  cases hrdy <;> decide

end Sys2Proof.Machine

/-! Hangs and timeouts (R101, R218): the ready-wait at a request's first word, and a held one. -/

namespace Sys2Proof.Machine

open Sys2Proof.Claims

/-! ### A request's first word -/

/-- A request on the bus begins with a transaction's opening. -/
theorem onBus_opening {i : Instr} (h : onBus i) : ∃ p k, requestProgram i = some (opening p ++ k) := by
  obtain ⟨⟨hcmd, hwr, hrd⟩, hwd, hrn, hpp, hdd⟩ := h
  cases i
  case writeData ws =>
    cases ws with
    | nil => exact absurd rfl hwd
    | cons w ws => exact ⟨.wr, _, rfl⟩
  case writeBytes bs => exact ⟨.wr, _, by
    rw [requestProgram, writeBytesProgram, wrBTxn, List.append_assoc, List.append_assoc]⟩
  case readData n =>
    cases n with
    | zero => exact absurd rfl hrn
    | succ n => exact ⟨.rd, _, rfl⟩
  case packPixels d e p => exact absurd rfl (hpp d e p)
  case decodeDevinfo ws => exact absurd rfl (hdd ws)
  case preambleCmd => exact absurd rfl hcmd
  case preambleWr => exact absurd rfl hwr
  case preambleRd => exact absurd rfl hrd
  all_goals exact ⟨.cmd, _, rfl⟩

/-- A request on the bus, up to its first ready-wait: chip-select is asserted. -/
theorem exec_onBus {i : Instr} (h : onBus i) {s : State} (hrst : s.rstIn = []) :
    ∃ k, exec i s = .next (run (.ready :: k) [] { begin s with cs := true, trace := s.trace ++ [.cs1] }) := by
  obtain ⟨p, k, hprog⟩ := onBus_opening h
  refine ⟨.pre p :: k, ?_⟩
  rw [exec_eq_issue hprog, issue]
  show Host.Outcome.next (run (startAct p :: .ready :: .pre p :: k) [] (begin s)) = _
  rw [run_startAct (s := begin s) hrst]
  cases p <;> rfl

/-- Settles O49: the first ready-wait holds. -/
theorem noHrdyHoldsAtFirstWord : Obligations.NoHrdyHoldsAtFirstWord := by
  intro i s hbus hrst hn hzero
  obtain ⟨k, hk⟩ := exec_onBus hbus hrst
  rw [run_ready_hold (s := { begin s with cs := true, trace := s.trace ++ [.cs1] }) hrst hzero hn] at hk
  exact ⟨_, hk, rfl, rfl, rfl, rfl, rfl, rfl, rfl, rfl, rfl⟩

/-! ### The timeout (R101, R218 b) -/

/-- Inside a transaction a ready-wait that sees as many 0 samples as the timeout allows ends the request. -/
theorem waitReady_timeout {s : State} {k z : Nat} {rest : List Bool} (hcs : s.cs = true)
    (hk : s.readyTimeout = some k) (hz : 0 < z) (hcount : s.wcount + z = k)
    (hq : s.hrdyIn = List.replicate z false ++ rest) :
    waitReady s = .ended (answered .timeout [] [.cs0] { s with hrdyIn := rest }) := by
  have hsample : sampleHrdy s.readyTimeout s.hrdyIn s.wcount = .timeout rest k := by
    rw [hk, hq, sampleHrdy_timeout k z rest s.wcount hz hcount]
  simp only [waitReady, hsample]
  rw [raiseError_asserted (s := { s with hrdyIn := rest, wcount := k }) hcs]
  rfl

theorem run_ready_timeout {s : State} {k : Nat} {rest : List Bool} (hrst : s.rstIn = []) (hcs : s.cs = true)
    (hk : s.readyTimeout = some k) (hpos : 0 < k) (hq : s.hrdyIn = List.replicate k false ++ rest)
    (now later : List Act) :
    run (.ready :: now) later s = answered .timeout [] [.cs0] { s with hrdyIn := rest } := by
  rw [run_cons hrst]
  simp only [perform]
  rw [waitReady_timeout (s := { s with wcount := 0 }) (z := k) hcs hk hpos (Nat.zero_add k) hq]
  rfl

/-- Settles O54: the timeout at the first ready-wait. -/
theorem timeoutAtFirstWord : Obligations.TimeoutAtFirstWord := by
  intro i s k rest hbus hrst hk hpos hq
  obtain ⟨acts, hexec⟩ := exec_onBus hbus hrst
  rw [hexec, run_ready_timeout (s := { begin s with cs := true, trace := s.trace ++ [.cs1] }) hrst rfl hk hpos hq]
  simp [answered, begin]

/-- A BUSY block with samples queued goes on with what is left, of which a ready-wait is next. -/
theorem step_of_wait {s : State} {a : Act} {acts : List Act} (hrst : s.rstIn = []) (hb : s.phase = .busy)
    (ha : a = .ready ∨ a = .wait) (htodo : s.todo = a :: acts) (hq : s.hrdyIn ≠ []) :
    step s = .next (run (a :: acts) [] s) := by
  rw [step_resume hrst hb htodo (by rcases ha with rfl | rfl <;> simp) (by rcases ha with rfl | rfl <;> simp), resume,
    supplyHrdy_of_queued hq, htodo]

theorem queued_of_replicate {tape rest : List Bool} {z : Nat} (hz : 0 < z) (hq : tape = List.replicate z false ++ rest) :
    tape ≠ [] := by
  rintro rfl
  have := congrArg List.length hq
  simp at this
  omega

/-- Settles O52: the held wait's count goes on. -/
theorem timeoutEndsTheRequest : Obligations.TimeoutEndsTheRequest := by
  intro s acts k z rest hb htodo hcs hrst hk hcount hz hq
  rw [step_of_wait hrst hb (.inr rfl) htodo (queued_of_replicate hz hq), run_cons hrst]
  simp only [perform]
  rw [waitReady_timeout hcs hk hz hcount hq]

/-- Settles O53: a new wait's count starts at 0, whatever `wcount` was. -/
theorem eachWaitCountsAnew : Obligations.EachWaitCountsAnew := by
  intro s acts k rest hb htodo hcs hrst hk hpos hq
  rw [step_of_wait hrst hb (.inl rfl) htodo (queued_of_replicate hpos hq), run_ready_timeout hrst hcs hk hpos hq]

/-! ### The hold (R101, R218 a) -/

/-- Settles O50: on 0 samples a held wait holds on, and a step takes nothing but them. -/
theorem holdHasNoExit : Obligations.HoldHasNoExit := by
  intro s k hb htodo hrst hn hzero
  have hrst' : (supplyHrdy s).rstIn = [] := by simpa using hrst
  have hn' : (supplyHrdy s).readyTimeout = none := by simpa using hn
  refine ⟨_, step_resume hrst hb htodo (by simp) (by simp), ?_⟩
  rw [resume, htodo, run_wait_hold hrst' hzero hn', List.append_nil, ← htodo]
  unfold supplyHrdy
  split <;> rfl

/-! ### How the samples arrive (log entry 6) -/

/-- A state with more samples of HRDY queued. -/
def moreHrdy (more : List Bool) (s : State) : State := { s with hrdyIn := s.hrdyIn ++ more }

/-- A ready-wait that sees a 1 leaves the samples behind it. -/
theorem sampleHrdy_ready_append {limit : Option Nat} {tape rest : List Bool} {wc : Nat}
    (h : sampleHrdy limit tape wc = .ready rest) (more : List Bool) :
    sampleHrdy limit (tape ++ more) wc = .ready (rest ++ more) := by
  induction tape generalizing wc with
  | nil => cases h
  | cons b tape ih =>
    cases b with
    | true => cases h; rfl
    | false =>
      cases limit with
      | none => exact ih h
      | some k =>
        rw [List.cons_append, sampleHrdy]
        rw [sampleHrdy] at h
        split at h
        · cases h
        · next hk => rw [if_neg hk]; exact ih h

theorem waitReady_go_moreHrdy {s t : State} (h : waitReady s = .go t) (more : List Bool) :
    waitReady (moreHrdy more s) = .go (moreHrdy more t) := by
  unfold waitReady at h
  split at h <;> cases h
  next rest hs => simp only [waitReady, moreHrdy, sampleHrdy_ready_append hs more]; rfl

/-- A ready-wait that holds goes on, with more samples, from the count it held at. -/
theorem waitReady_hold_moreHrdy {s t : State} (h : waitReady s = .hold t) (more : List Bool) :
    waitReady (moreHrdy more s) = waitReady { t with hrdyIn := more } := by
  unfold waitReady at h
  split at h <;> cases h
  next wc hs => simp only [waitReady, moreHrdy, sampleHrdy_append hs]

/-- An act that goes on needs none of the samples behind those it takes. -/
theorem perform_go_moreHrdy {a : Act} {s t : State} (h : perform a s = .go t) (more : List Bool) :
    perform a (moreHrdy more s) = .go (moreHrdy more t) := by
  cases a with
  | ready => exact waitReady_go_moreHrdy h more
  | wait => exact waitReady_go_moreHrdy h more
  | pre p => cases h; cases p <;> simp only [perform, xferPreamble, xfer16_eq, nextWord_eq] <;> rfl
  | x16 o => cases h; simp only [perform, xfer16_eq]; rfl
  | fill => cases h; simp only [perform, xfer16_eq, nextWord_eq]; rfl
  | x8 o => cases h; simp only [perform, xfer8_eq]; rfl
  | done f => cases h
  | csOn => cases h; rfl
  | rdOn => cases h; rfl
  | csOff => cases h; rfl

/-- An act that holds, given more samples, goes on as the wait it holds in. -/
theorem perform_hold_moreHrdy {a : Act} {s t : State} (h : perform a s = .hold t) (more : List Bool) :
    perform a (moreHrdy more s) = perform .wait { t with hrdyIn := more } := by
  cases a <;> simp only [perform, reduceCtorEq] at h
  case ready => exact waitReady_hold_moreHrdy h more
  case wait => exact waitReady_hold_moreHrdy h more

/-- A request that is over is not inside a ready-wait. -/
theorem perform_ended_not_waiting {a : Act} {s t : State} (h : perform a s = .ended t) (hb : t.phase = .busy) :
    t.todo.head? ≠ some .wait := by
  obtain ⟨f, _, rfl⟩ | ⟨_, _, rest, wc, rfl⟩ := perform_ended h
  · obtain ⟨st, data, _, hr⟩ | ⟨b, _, hpoll⟩ := finish_cases f s
    · rw [hr.phase] at hb
      cases hb
    · rw [hpoll]
      exact nofun
  · rw [(responded_raiseError .timeout _).phase] at hb
    cases hb

/-- A run that holds for want of samples goes on, given more, from where it holds. -/
theorem run_moreHrdy (more : List Bool) {now : List Act} : ∀ {s t : State}, s.rstIn = [] → run now [] s = t →
    t.phase = .busy → t.todo.head? = some .wait →
    t.rstIn = [] ∧ run now [] (moreHrdy more s) = run t.todo [] { t with hrdyIn := more } := by
  induction now with
  | nil =>
    rintro s t _ rfl _ hhead
    cases hhead
  | cons a now ih =>
    rintro s t hrst rfl hb hhead
    rw [run_cons hrst] at hb hhead ⊢
    rw [run_cons (s := moreHrdy more s) hrst]
    cases hp : perform a s with
    | go u =>
      simp only [hp] at hb hhead ⊢
      rw [perform_go_moreHrdy hp more]
      exact ih ((perform_rstIn (.inl hp)).trans hrst) rfl hb hhead
    | hold u =>
      have hu : u.rstIn = [] := (perform_rstIn (.inr (.inl hp))).trans hrst
      refine ⟨hu, ?_⟩
      rw [perform_hold_moreHrdy hp more]
      have hwait := run_cons (s := { u with hrdyIn := more }) hu .wait now []
      simp only [List.append_nil] at hwait ⊢
      exact hwait.symm.trans (run_setTodo (.wait :: now) (.wait :: now) [] { u with hrdyIn := more }).symm
    | ended u =>
      simp only [hp] at hb hhead
      exact absurd hhead (perform_ended_not_waiting hp hb)

/-- Settles O51: the held run, given the samples from the start or in the next step. -/
theorem heldRequestGoesOnWhereItStood : Obligations.HeldRequestGoesOnWhereItStood := by
  intro i s t more hreq hrst hmore hexec hb hhead
  cases hprog : requestProgram i with
  | none =>
    obtain ⟨p, rfl⟩ := preamble_of_no_program hprog
    obtain ⟨hcmd, hwr, hrd⟩ := hreq
    cases p
    · exact absurd rfl hcmd
    · exact absurd rfl hwr
    · exact absurd rfl hrd
  | some program =>
    rw [exec_eq_issue hprog, Host.Outcome.next.injEq] at hexec
    obtain ⟨hrst', hrun⟩ := run_moreHrdy more (s := begin s) hrst hexec hb hhead
    obtain ⟨acts, htodo⟩ : ∃ acts, t.todo = .wait :: acts := by
      cases ht : t.todo with
      | nil => rw [ht] at hhead; cases hhead
      | cons a acts => rw [ht] at hhead; cases hhead; exact ⟨acts, rfl⟩
    rw [exec_eq_issue hprog, step_of_wait (s := { t with hrdyIn := more }) hrst' hb (.inr rfl) htodo hmore, ← htodo]
    exact congrArg _ hrun

end Sys2Proof.Machine

/-! A reset inside a request (R240), and what a write-type request does with what it receives (R109). -/

namespace Sys2Proof.Machine

open Sys2Proof.Claims

/-! ### Acts with other samples of `rst` to come -/

/-- An act neither reads the samples of `rst` to come nor takes one. -/
theorem perform_setRst (r : List Bool) (s : State) (a : Act) :
    perform a (setRst r s) = (perform a s).map (setRst r) (setRst r) := by
  rw [show setRst r s = setAside s.todo r s from rfl, perform_setAside]
  cases hp : perform a s with
  | go t =>
    rw [← (perform_go hp).todo]
    rfl
  | hold t =>
    obtain ⟨_, wc, rfl⟩ := perform_hold hp
    rfl
  | ended t => rfl

/-- One act of a run with a sample of `rst` that is not asserted before it. -/
theorem run_cons_released {s : State} {r : List Bool} (h : s.rstIn = false :: r) (a : Act) (now later : List Act) :
    run (a :: now) later s = match perform a (setRst r s) with
      | .go t => run now later t
      | .hold t => { t with todo := .wait :: (now ++ later) }
      | .ended t => t := by
  rw [run, show rstAsserted s = false by rw [rstAsserted, h]; rfl, show takeRst s = setRst r s by rw [takeRst, h]; rfl]
  rfl

/-- A run that meets an asserted sample of `rst`. -/
theorem run_cons_asserted {s : State} {r : List Bool} (h : s.rstIn = true :: r) (a : Act) (now later : List Act) :
    run (a :: now) later s = applyReset (setRst r s) := by
  rw [run, show rstAsserted s = true by rw [rstAsserted, h]; rfl, show takeRst s = setRst r s by rw [takeRst, h]; rfl]
  rfl

/-! ### A reset at a program point (R240) -/

theorem Kept.trans {s t u : State} (h : Kept s t) (h' : Kept t u) : Kept s u where
  phase := h'.phase.trans h.phase
  req := h'.req.trans h.req
  diValid := h'.diValid.trans h.diValid
  lastErr := h'.lastErr.trans h.lastErr
  di := h'.di.trans h.di
  packGeom := h'.packGeom.trans h.packGeom
  readyTimeout := h'.readyTimeout.trans h.readyTimeout
  responses := h'.responses.trans h.responses
  port := h'.port.trans h.port
  trace := h.trace.trans h'.trace
  rstIn := h'.rstIn.trans h.rstIn

@[simp] theorem raiseError_todo (e : Status) (s : State) : (raiseError e s).todo = [] := by
  unfold raiseError; split <;> rfl

/-- The acts that a run has gone through with no reset, and then an asserted sample: the reset of the state they lead to. -/
theorem run_reset_after {front back : List Act} {rst : List Bool} (hback : back ≠ []) : ∀ {s u : State},
    s.rstIn = List.replicate front.length false ++ true :: rst → noDone front →
    u = run front back (setRst [] s) → u.todo = back →
    run (front ++ back) [] s = applyReset (setRst rst u) ∧ Kept (setRst [] s) u := by
  induction front with
  | nil =>
    rintro s u hrst _ rfl _
    obtain ⟨b, bs, rfl⟩ := List.exists_cons_of_ne_nil hback
    exact ⟨run_cons_asserted hrst b bs [], { Kept.refl (setRst [] s) with }⟩
  | cons a front ih =>
    rintro s u hrst hdone rfl htodo
    have hrst' : s.rstIn = false :: (List.replicate front.length false ++ true :: rst) := hrst
    rw [run_cons (s := setRst [] s) rfl] at htodo ⊢
    rw [List.cons_append, run_cons_released hrst', perform_setRst]
    rw [perform_setRst] at htodo ⊢
    cases hp : perform a s with
    | go t =>
      simp only [hp, Progress.map] at htodo ⊢
      obtain ⟨hrun, hkept⟩ := ih (s := setRst (List.replicate front.length false ++ true :: rst) t) rfl
        (fun f hf => hdone f (List.mem_cons_of_mem a hf)) rfl htodo
      have hgo : perform a (setRst [] s) = .go (setRst [] t) := by rw [perform_setRst, hp]; rfl
      exact ⟨hrun, ((Kept.refl _).goesOn (perform_go hgo)).trans hkept⟩
    | hold t =>
      simp only [hp, Progress.map] at htodo
      have := congrArg List.length htodo
      simp at this
      omega
    | ended t =>
      simp only [hp, Progress.map] at htodo
      obtain ⟨f, rfl, _⟩ | ⟨_, _, rest, wc, rfl⟩ := perform_ended hp
      · exact absurd List.mem_cons_self (hdone f)
      · have hnil : ∀ e v, (setRst [] (raiseError e v)).todo = [] := raiseError_todo
        exact absurd (htodo.symm.trans (hnil _ _)) hback

/-- Settles O57's first part. -/
theorem reset_at_program_point {i : Instr} {s : State} {program : List Act} {n : Nat} {rst : List Bool} {u : State}
    (hprog : requestProgram i = some program) (hn : n < program.length)
    (hrst : s.rstIn = List.replicate n false ++ true :: rst)
    (hu : u = run (program.take n) (program.drop n) (begin { s with rstIn := [] })) (htodo : u.todo = program.drop n) :
    exec i s = .next (applyReset (setRst rst u)) ∧ Kept { s with phase := .busy, rstIn := [] } u := by
  have hback : program.drop n ≠ [] := by simpa using hn
  have hlen : (program.take n).length = n := by simp; omega
  have hdone : noDone (program.take n) := by
    obtain ⟨bus, rfl, hbus, _⟩ := requestProgram_eq hprog
    rw [List.take_append_of_le_length (by simp at hn; omega)]
    exact fun f hf => hbus f (List.mem_of_mem_take hf)
  obtain ⟨hrun, hkept⟩ := run_reset_after (s := begin s) hback (by rw [hlen]; exact hrst) hdone hu htodo
  rw [exec_eq_issue hprog, issue, ← hrun, List.take_append_drop]
  exact ⟨rfl, { hkept with }⟩

/-! ### A reset in any step (R240) -/

/-- A run with an asserted sample of `rst` to come: it meets it, and resets a state that it has kept, or it ends before
it and is the run with no reset. -/
theorem run_rst (later : List Act) {rst : List Bool} {now : List Act} : ∀ {n : Nat} {s : State},
    s.rstIn = List.replicate n false ++ true :: rst →
    (∃ u, run now later s = applyReset u ∧ u.rstIn = rst ∧ Kept s u) ∨
      ∃ m, (run now later s).rstIn = List.replicate m false ++ true :: rst ∧
        run now later (setRst [] s) = setRst [] (run now later s) := by
  induction now with
  | nil => exact fun {n s} h => .inr ⟨n, h, rfl⟩
  | cons a now ih =>
    intro n s h
    cases n with
    | zero =>
      have hsuffix : rst <:+ s.rstIn := h ▸ List.suffix_cons true rst
      exact .inl ⟨setRst rst s, run_cons_asserted h a now later, rfl, { Kept.refl s with rstIn := hsuffix }⟩
    | succ n =>
      have h' : s.rstIn = false :: (List.replicate n false ++ true :: rst) := h
      have hkept : Kept s (setRst (List.replicate n false ++ true :: rst) s) :=
        { Kept.refl s with rstIn := h' ▸ List.suffix_cons false _ }
      rw [run_cons_released h', run_cons (s := setRst [] s) rfl,
        perform_setRst (List.replicate n false ++ true :: rst) s a, perform_setRst [] s a]
      cases hp : perform a s with
      | go t =>
        have hgo : perform a (setRst (List.replicate n false ++ true :: rst) s) =
            .go (setRst (List.replicate n false ++ true :: rst) t) := by
          rw [perform_setRst, hp]
          rfl
        exact (ih (s := setRst (List.replicate n false ++ true :: rst) t) rfl).imp_left fun ⟨u, hrun, hrst, hu⟩ =>
          ⟨u, hrun, hrst, (hkept.goesOn (perform_go hgo)).trans hu⟩
      | hold t => exact .inr ⟨n, rfl, rfl⟩
      | ended t => exact .inr ⟨n, rfl, rfl⟩

theorem supplyHrdy_setRst (r : List Bool) (s : State) : supplyHrdy (setRst r s) = setRst r (supplyHrdy s) := by
  unfold supplyHrdy
  rw [show (setRst r s).hrdyIn = s.hrdyIn from rfl]
  split <;> rfl

/-- Taking up what is fetched changes the request in progress, the port and the micro-state alone. -/
theorem kept_takeUp (f : Fetched) (s : State) :
    Kept { s with phase := (takeUp f s).phase, req := (takeUp f s).req, port := (takeUp f s).port } (takeUp f s) := by
  cases f <;> exact ⟨rfl, rfl, rfl, rfl, rfl, rfl, rfl, rfl, rfl, List.prefix_rfl, List.suffix_rfl⟩

theorem takeUp_rstIn (f : Fetched) (s : State) : (takeUp f s).rstIn = s.rstIn := by
  cases f <;> rfl

theorem takeUp_setRst (f : Fetched) (r : List Bool) (s : State) : takeUp f (setRst r s) = setRst r (takeUp f s) := by
  cases f <;> rfl

/-- An instruction is a run that starts with the samples of `rst` that are to come. -/
theorem exec_setRst (i : Instr) (s : State) : ∃ now later u, exec i s = .next (run now later u) ∧
    Kept { s with phase := u.phase } u ∧ u.rstIn = s.rstIn ∧
    ∀ r, exec i (setRst r s) = .next (run now later (setRst r u)) := by
  cases hprog : requestProgram i with
  | some program =>
    exact ⟨program, [], begin s, exec_eq_issue hprog s, { Kept.refl s with phase := rfl }, rfl,
      fun r => exec_eq_issue hprog (setRst r s)⟩
  | none =>
    obtain ⟨p, rfl⟩ := preamble_of_no_program hprog
    exact ⟨opening p, s.todo, s, exec_preamble p s, Kept.refl s, rfl, fun r => exec_preamble p (setRst r s)⟩

/-- A step whose `rst` is released at its start is nothing, or a run that starts with the samples that are to come. -/
theorem stepLive_setRst {s t : State} (h : stepLive s = .next t) :
    (t = s ∧ ∀ r, stepLive (setRst r s) = .next (setRst r s)) ∨
    ∃ now later u, t = run now later u ∧ Kept { s with phase := u.phase, req := u.req, port := u.port } u ∧
      u.rstIn = s.rstIn ∧ ∀ r, stepLive (setRst r s) = .next (run now later (setRst r u)) := by
  have hfetch : ∀ r, fetch (setRst r s) = fetch s := fun _ => rfl
  cases hf : fetch s with
  | none =>
    have hstep : ∀ r, stepLive (setRst r s) = proceed (setRst r s) := fun r => by
      simp only [stepLive, hfetch, hf]
    rw [show stepLive s = proceed s from hstep s.rstIn] at h
    simp only [hstep]
    cases hphase : s.phase with
    | idle =>
      have hidle : ∀ r, proceed (setRst r s) = .next (setRst r s) := fun r => by
        simp only [proceed, show (setRst r s).phase = .idle from hphase]
      cases (hidle s.rstIn).symm.trans h
      exact .inl ⟨rfl, hidle⟩
    | busy =>
      have hbusy : ∀ r, proceed (setRst r s) =
          if s.todo.isEmpty then .fault .busyWithoutProgram else .next (run s.todo [] (setRst r (supplyHrdy s))) := by
        intro r
        simp only [proceed, show (setRst r s).phase = .busy from hphase, resume, supplyHrdy_setRst]
        rfl
      rw [show proceed s = _ from hbusy s.rstIn] at h
      split at h
      · cases h
      next htodo =>
      rw [Host.Outcome.next.injEq] at h
      refine .inr ⟨s.todo, [], setRst s.rstIn (supplyHrdy s), h.symm, ?_, rfl, fun r => ?_⟩
      · constructor <;> simp [setRst]
      · rw [hbusy, if_neg htodo]
        rfl
  | some f =>
    cases hd : decode f with
    | instr i =>
      have hstep : ∀ v, fetch v = some f → stepLive v = exec i (takeUp f v) := fun v hv => by
        simp only [stepLive, hv, hd]
      obtain ⟨now, later, u, hexec, hkept, hrst, hset⟩ := exec_setRst i (takeUp f s)
      rw [hstep s hf, hexec, Host.Outcome.next.injEq] at h
      refine .inr ⟨now, later, u, h.symm, ?_, hrst.trans (takeUp_rstIn f s), fun r => ?_⟩
      · exact Kept.trans (t := { takeUp f s with phase := u.phase }) { kept_takeUp f s with phase := rfl, req := hkept.req.symm, port := hkept.port.symm } hkept
      · rw [hstep _ ((hfetch r).trans hf), takeUp_setRst, hset]
    | violation v =>
      have hstep : ∀ v, fetch v = some f → stepLive v = .next (issue [.done (.fail .illegal)] (takeUp f v)) :=
        fun v hv => by simp only [stepLive, hv, hd]; rfl
      rw [hstep s hf, Host.Outcome.next.injEq] at h
      refine .inr ⟨_, [], begin (takeUp f s), h.symm, ?_, takeUp_rstIn f s, fun r => ?_⟩
      · exact { kept_takeUp f s with phase := rfl }
      · rw [hstep _ ((hfetch r).trans hf), takeUp_setRst]
        rfl
    | badLength => simp only [stepLive, hf, hd, reduceCtorEq] at h
    | noRow => simp only [stepLive, hf, hd, reduceCtorEq] at h

/-- Settles O57: at a program point the run so far is reset; in any step the sample at its start, or one of its run's,
resets the block, or the run ends before it. -/
theorem resetAbandonsRequest : Obligations.ResetAbandonsRequest := by
  constructor
  · intro i s program n rst u hprog hn hrst hu htodo
    obtain ⟨hexec, hkept⟩ := reset_at_program_point hprog hn hrst hu htodo
    refine ⟨_, hexec, isReset_applyReset _, ?_, hkept.responses, hkept.port, hkept.readyTimeout, rfl⟩
    cases hcs : u.cs <;> simp [setRst, hcs]
  · intro s t n rst hrst ht
    have hreset : ∀ v, Kept { s with phase := v.phase, req := v.req, port := v.port } v → v.rstIn = rst →
        IsReset (applyReset v) ∧ (applyReset v).responses = s.responses ∧
          (applyReset v).readyTimeout = s.readyTimeout ∧ (applyReset v).rstIn = rst ∧
          ∃ events, (applyReset v).trace = s.trace ++ events := by
      intro v hv hrv
      refine ⟨isReset_applyReset v, hv.responses, hv.readyTimeout, hrv, ?_⟩
      obtain ⟨events, hev⟩ := hv.trace
      rw [applyReset_trace, ← hev]
      split
      · exact ⟨events ++ [.cs0], List.append_assoc ..⟩
      · exact ⟨events, rfl⟩
    cases n with
    | zero =>
      have hasserted : rstAsserted s = true := by rw [rstAsserted, hrst]; rfl
      cases (step_reset hasserted).symm.trans ht
      exact .inl (hreset (takeRst s) (Kept.refl s).takeRst (by rw [takeRst_rstIn, hrst]; rfl))
    | succ n =>
      have hrst' : s.rstIn = false :: (List.replicate n false ++ true :: rst) := hrst
      have hlive : step s = stepLive (setRst (List.replicate n false ++ true :: rst) s) := by
        rw [step, show rstAsserted s = false by rw [rstAsserted, hrst']; rfl, takeRst, hrst']
        rfl
      rw [hlive] at ht
      rw [show step { s with rstIn := [] } = stepLive (setRst [] s) from step_live rfl]
      obtain ⟨rfl, hset⟩ | ⟨now, later, u, rfl, hkept, hu, hset⟩ := stepLive_setRst ht
      · exact .inr ⟨n, rfl, hset []⟩
      obtain ⟨v, hrun, hv, hkv⟩ | ⟨m, hm, hrun⟩ := run_rst later (now := now) hu
      · rw [hrun]
        have hsuffix : (setRst (List.replicate n false ++ true :: rst) s).rstIn <:+ s.rstIn :=
          hrst' ▸ List.suffix_cons false _
        refine .inl (hreset v ?_ hv)
        exact Kept.trans (t := { u with phase := v.phase, req := v.req, port := v.port })
          { hkept with phase := rfl, req := rfl, port := rfl, rstIn := hkept.rstIn.trans hsuffix }
          { hkv with phase := rfl, req := rfl, port := rfl }
      · exact .inr ⟨m, hm, (hset []).trans (congrArg _ hrun)⟩

end Sys2Proof.Machine

/-! What the CHIP sends during a write-type request (R109): it reaches the trace and the queue of MISO, and nothing else. -/

namespace Sys2Proof.Machine

open Sys2Proof.Claims

/-- The second state is the first but for what has been received: the received side of the trace, and the MISO queue. -/
def SameButMiso (s s' : State) : Prop :=
  ∃ trace misoIn misoDrawn, s' = { s with trace := trace, misoIn := misoIn, misoDrawn := misoDrawn } ∧
    mosiBytes trace = mosiBytes s.trace

/-- Two acts end alike, in states that are the same but for what has been received. -/
def Progress.SameButMiso : Progress → Progress → Prop
  | .go t, .go t' => Machine.SameButMiso t t'
  | .hold t, .hold t' => Machine.SameButMiso t t'
  | .ended t, .ended t' => Machine.SameButMiso t t'
  | _, _ => False

/-- The acts that keep nothing of what they receive (R109). -/
def discards : Act → Bool
  | .pre .rd => false
  | .fill => false
  | .done (.ok _) => true
  | .done _ => false
  | _ => true

/-- One more event with the same bytes on MOSI, and one more received word or byte. -/
theorem SameButMiso.receive {s s' : State} (h : SameButMiso s s') (n : Nat) (e e' : Event) (he : e'.mosi = e.mosi) :
    SameButMiso { afterWire s.hrdyIn n s with trace := s.trace ++ [e] }
      { afterWire s'.hrdyIn n s' with trace := s'.trace ++ [e'] } := by
  obtain ⟨trace, m, d, rfl, hmosi⟩ := h
  refine ⟨trace ++ [e'], m.drop n, d + (n - m.length), rfl, ?_⟩
  simp only [mosiBytes_append, hmosi]
  simp [mosiBytes, he]

/-- Traces with the same bytes on MOSI, and one more event on each. -/
theorem mosiBytes_snoc {t t' : List Event} (h : mosiBytes t' = mosiBytes t) (e : Event) :
    mosiBytes (t' ++ [e]) = mosiBytes (t ++ [e]) := by
  rw [mosiBytes_append, mosiBytes_append, h]

theorem SameButMiso.raiseError {s s' : State} (h : SameButMiso s s') (e : Status) :
    SameButMiso (raiseError e s) (raiseError e s') := by
  obtain ⟨trace, m, d, rfl, hmosi⟩ := h
  unfold Machine.raiseError
  split
  · exact ⟨trace ++ [.cs0], m, d, rfl, mosiBytes_snoc hmosi _⟩
  · exact ⟨trace, m, d, rfl, hmosi⟩

theorem SameButMiso.waitReady {s s' : State} (h : SameButMiso s s') :
    (waitReady s).SameButMiso (waitReady s') := by
  obtain ⟨trace, m, d, rfl, hmosi⟩ := h
  simp only [Machine.waitReady]
  cases sampleHrdy s.readyTimeout s.hrdyIn s.wcount with
  | ready rest => exact ⟨trace ++ [.rdy], m, d, rfl, mosiBytes_snoc hmosi _⟩
  | hold wc => exact ⟨trace, m, d, rfl, hmosi⟩
  | timeout rest wc =>
    exact SameButMiso.raiseError (s := { s with hrdyIn := rest, wcount := wc }) ⟨trace, m, d, rfl, hmosi⟩ .timeout

theorem SameButMiso.perform {s s' : State} (h : SameButMiso s s') {a : Act} (ha : discards a = true) :
    (perform a s).SameButMiso (perform a s') := by
  obtain ⟨trace, m, d, rfl, hmosi⟩ := h
  have hs : SameButMiso s { s with trace := trace, misoIn := m, misoDrawn := d } := ⟨trace, m, d, rfl, hmosi⟩
  cases a with
  | csOn => exact ⟨trace ++ [.cs1], m, d, rfl, mosiBytes_snoc hmosi _⟩
  | rdOn => exact ⟨trace ++ [.cs1], m, d, rfl, mosiBytes_snoc hmosi _⟩
  | csOff => exact ⟨trace ++ [.cs0], m, d, rfl, mosiBytes_snoc hmosi _⟩
  | ready => exact SameButMiso.waitReady (s := { s with wcount := 0 }) ⟨trace, m, d, rfl, hmosi⟩
  | wait => exact hs.waitReady
  | pre p =>
    cases p with
    | rd => cases ha
    | cmd =>
      simp only [Machine.perform, xferPreamble, xfer16_eq]
      exact hs.receive 2 (.x16 (preambleWord .cmd) _) (.x16 (preambleWord .cmd) _) rfl
    | wr =>
      simp only [Machine.perform, xferPreamble, xfer16_eq]
      exact hs.receive 2 (.x16 (preambleWord .wr) _) (.x16 (preambleWord .wr) _) rfl
  | x16 o =>
    simp only [Machine.perform, xfer16_eq]
    exact hs.receive 2 (.x16 o _) (.x16 o _) rfl
  | fill => cases ha
  | x8 o =>
    simp only [Machine.perform, xfer8_eq]
    exact hs.receive 1 (.x8 o _) (.x8 o _) rfl
  | done f =>
    cases f with
    | ok data => exact ⟨trace, m, d, rfl, hmosi⟩
    | _ => cases ha

theorem SameButMiso.takeRst {s s' : State} (h : SameButMiso s s') : SameButMiso (takeRst s) (takeRst s') := by
  obtain ⟨trace, m, d, rfl, hmosi⟩ := h
  exact ⟨trace, m, d, rfl, hmosi⟩

theorem SameButMiso.setTodo {s s' : State} (h : SameButMiso s s') (k : List Act) :
    SameButMiso { s with todo := k } { s' with todo := k } := by
  obtain ⟨trace, m, d, rfl, hmosi⟩ := h
  exact ⟨trace, m, d, rfl, hmosi⟩

theorem SameButMiso.applyReset {s s' : State} (h : SameButMiso s s') : SameButMiso (applyReset s) (applyReset s') := by
  obtain ⟨trace, m, d, rfl, hmosi⟩ := h
  refine ⟨if s.cs then trace ++ [.cs0] else trace, m, d, rfl, ?_⟩
  rw [applyReset_trace]
  split <;> simp [hmosi]

/-- A run of acts that keep nothing of what they receive. -/
theorem SameButMiso.run (later : List Act) {now : List Act} (hnow : ∀ a ∈ now, discards a = true) :
    ∀ {s s' : State}, SameButMiso s s' → SameButMiso (run now later s) (run now later s') := by
  induction now with
  | nil => exact fun h => h.setTodo later
  | cons a now ih =>
    intro s s' h
    have hrst : rstAsserted s' = rstAsserted s := by
      obtain ⟨_, _, _, rfl, _⟩ := h
      rfl
    have hact := h.takeRst.perform (hnow a List.mem_cons_self)
    simp only [Machine.run, hrst]
    split
    · exact h.takeRst.applyReset
    revert hact
    cases Machine.perform a (Machine.takeRst s) <;> cases Machine.perform a (Machine.takeRst s') <;>
      simp only [Progress.SameButMiso, false_implies]
    · exact ih fun b hb => hnow b (List.mem_cons_of_mem a hb)
    · exact fun h => h.setTodo _
    · exact id

theorem discards_cmdTxn (c : Word) : ∀ a ∈ cmdTxn c, discards a = true := by
  simp [cmdTxn, opening, startAct, discards]

theorem discards_wrTxn (ws : List Word) : ∀ a ∈ wrTxn ws, discards a = true := by
  simp only [wrTxn, opening, startAct, List.forall_mem_append, List.forall_mem_flatMap, List.forall_mem_cons]
  simp [discards]

theorem discards_wrBTxn (bs : List Byte) : ∀ a ∈ wrBTxn bs, discards a = true := by
  cases bs with
  | nil => simp [wrBTxn, opening, startAct, discards]
  | cons b bs =>
    simp only [wrBTxn, opening, startAct, List.forall_mem_append, List.forall_mem_cons]
    simp [discards]

theorem discards_ok {bus : List Act} (h : ∀ a ∈ bus, discards a = true) (data : List Word) :
    ∀ a ∈ bus ++ [.done (.ok data)], discards a = true := by
  intro a ha
  rcases List.mem_append.mp ha with ha | ha
  · exact h a ha
  · rw [List.mem_singleton.mp ha]
    rfl

/-- The write-type requests keep nothing of what they receive (R109). -/
theorem discards_writeType {i : Instr} (hi : (∃ c, i = .sendCmd c) ∨ (∃ ws, i = .writeData ws) ∨
    (∃ bs, i = .writeBytes bs) ∨ (∃ a v, i = .writeReg a v) ∨ ∃ row ∈ commandRows, i = row.1) :
    ∃ program, requestProgram i = some program ∧ ∀ a ∈ program, discards a = true := by
  obtain ⟨c, rfl⟩ | ⟨ws, rfl⟩ | ⟨bs, rfl⟩ | ⟨a, v, rfl⟩ | ⟨row, hrow, rfl⟩ := hi
  · exact ⟨_, rfl, discards_ok (discards_cmdTxn c) []⟩
  · cases ws with
    | nil => exact ⟨_, rfl, discards_ok (bus := []) nofun []⟩
    | cons w ws => exact ⟨_, rfl, discards_ok (discards_wrTxn (w :: ws)) []⟩
  · exact ⟨_, rfl, discards_ok (discards_wrBTxn bs) []⟩
  · refine ⟨_, rfl, discards_ok (fun b hb => ?_) []⟩
    rcases List.mem_append.mp hb with hb | hb
    · exact discards_cmdTxn _ b hb
    · exact discards_wrTxn _ b hb
  · exact ⟨_, requestProgram_commandRow row hrow, discards_ok (discards_cmdTxn row.2) []⟩

/-- Settles O27: the runs with the one and the other bytes received go side by side. -/
theorem writeReceivesAreDiscarded : Obligations.WriteReceivesAreDiscarded := by
  intro i s m d hi
  obtain ⟨program, hprog, hdisc⟩ := discards_writeType hi
  have h : SameButMiso (begin s) (begin { s with misoIn := m, misoDrawn := d }) := ⟨s.trace, m, d, rfl, rfl⟩
  obtain ⟨trace, m', d', ht, hmosi⟩ := SameButMiso.run [] hdisc h
  refine ⟨_, _, exec_eq_issue hprog s, exec_eq_issue hprog _, ?_, ?_⟩
  · rw [issue, ht]
    rfl
  · rw [issue, ht]
    exact hmosi

end Sys2Proof.Machine
